-- ==== Sys2Proof/Word.lean ====
section
/-! DEFINITION. The widths the spec gives its values: the byte of the bus and of the event word, the 32-bit
register and response word, and the 16-bit coefficient and counter. The arithmetic of rule R8 stands in
Machine/Arith.lean. -/

namespace Sys2Proof

/-- One byte: an event word (R60), a bus byte (R41), an unsigned or signed 8-bit coefficient (R11). -/
abbrev Byte := BitVec 8

/-- A 16-bit coefficient (R11) or debounce counter (R17, CNT_W = 16 by R6). -/
abbrev Half := BitVec 16

/-- A 32-bit register (R11) or response value (R64), read as s32 or u32 as the rule says. -/
abbrev Word := BitVec 32

/-- The 7-bit device address of the two-wire bus (R6, R40). -/
abbrev DevAddr := BitVec 7

end Sys2Proof
end

