-- ==== Sys2Proof/Config.lean ====
section
/-! DEFINITION. The implementation parameters of R6 and the free values. A `Config` is plain data, so that a
statement can quantify over every instance of the hardware and a test can name one; `Config.device` is the
instance `State.reset` carries, and what the spec leaves OPEN in it is an opaque constant, which nothing can
evaluate. The answers of the sensor bus that no input supplies are opaque too (R43). -/

namespace Sys2Proof

/-- The parameters of R6 that a rule of the spec depends on. N_LANES = 2, CNT_W = 16, the burst lengths 26, 7, 8
and OVERFLOW_MODE = wrap are fixed by R6 and are built into the model; TICK_PERIOD and BUS_BUDGET are timing
only and no rule depends on them (R182). -/
structure Config where
  /-- MIN_LANE_FULL_TICKS, OPEN in 1 .. 2^16 - 1 (R6; `Config.wf`). -/
  minLaneFullTicks  : Half
  /-- MIN_LANE_EMPTY_TICKS, OPEN in 1 .. 2^16 - 1 (R6; `Config.wf`). -/
  minLaneEmptyTicks : Half
  /-- TEMP_OFFSET, signed 32 bit, OPEN (R6, R81). -/
  tempOffset        : Word
  /-- DEV_ADDR, OPEN (R6, R40). -/
  devAddr           : DevAddr
  /-- REG_CAL_A, REG_CAL_B, REG_DATA: the three ranges read (R42). -/
  regCalA           : Byte
  regCalB           : Byte
  regData           : Byte
  /-- REG_CTRL_HUM, REG_CONFIG, REG_CTRL_MEAS: the three registers INIT writes (R42, R120). -/
  regCtrlHum        : Byte
  regConfig         : Byte
  regCtrlMeas       : Byte
  /-- CFG_HUM, CFG_CONFIG, CFG_MEAS: the bytes INIT writes (R6, R19), OPEN. -/
  cfgHum            : Byte
  cfgConfig         : Byte
  cfgMeas           : Byte
  /-- H45_SIGN_EXTEND (R6, R67). -/
  h45SignExtend     : Bool
deriving DecidableEq, Repr

/-- One answer of the agent BUS to one transaction (R43): a failure, an acknowledgement (`ping` answers true, a
write answers Ok), or the bytes of a read. An answer that does not fit its transaction is no whole result and
counts as a failure (Machine/Ops.lean; R41, R184; log entry 5). -/
inductive BusAnswer where
  | fail
  | ack
  | bytes (bs : List Byte)
deriving DecidableEq, Repr, Inhabited

namespace Config

/-- FREE VALUE. The answer the bus gives to the n-th transaction since the start of the model when no answer is
queued in the state: any answer whatever, under no law (R43; log entry 4). -/
opaque busOracle : Nat → BusAnswer

/-- FREE VALUE. The value of MIN_LANE_FULL_TICKS, less one: the spec leaves it OPEN in 1 .. 65535 (R6). -/
opaque openFullTicksLessOne : Fin 65535

/-- FREE VALUE. The value of MIN_LANE_EMPTY_TICKS, less one: the spec leaves it OPEN in 1 .. 65535 (R6). -/
opaque openEmptyTicksLessOne : Fin 65535

/-- FREE VALUE. TEMP_OFFSET of the device (R6: OPEN; spec/91 N26: do not assume it is 0). -/
opaque openTempOffset : Word

/-- FREE VALUE. DEV_ADDR (R6: OPEN). -/
opaque openDevAddr : DevAddr

/-- FREE VALUES. The six register addresses (spec/92 D9: OPEN; spec/91 N4: do not assume the defaults). -/
opaque openRegCalA : Byte
opaque openRegCalB : Byte
opaque openRegData : Byte
opaque openRegCtrlHum : Byte
opaque openRegConfig : Byte
opaque openRegCtrlMeas : Byte

/-- FREE VALUES. The three configuration bytes (R6: OPEN). -/
opaque openCfgHum : Byte
opaque openCfgConfig : Byte
opaque openCfgMeas : Byte

/-- The instance that `State.reset` carries: every OPEN parameter a free value, H45_SIGN_EXTEND at the value R6
and R67 give it (log entry 2). -/
def device : Config where
  minLaneFullTicks  := BitVec.ofNat 16 (openFullTicksLessOne.val + 1)
  minLaneEmptyTicks := BitVec.ofNat 16 (openEmptyTicksLessOne.val + 1)
  tempOffset        := openTempOffset
  devAddr           := openDevAddr
  regCalA           := openRegCalA
  regCalB           := openRegCalB
  regData           := openRegData
  regCtrlHum        := openRegCtrlHum
  regConfig         := openRegConfig
  regCtrlMeas       := openRegCtrlMeas
  cfgHum            := openCfgHum
  cfgConfig         := openCfgConfig
  cfgMeas           := openCfgMeas
  h45SignExtend     := true

end Config

end Sys2Proof
end

