-- ==== Sys2Proof/Syntax.lean ====
section
/-! DEFINITION. The thirteen operations (R3, R61), one constructor per row of spec/opcode_table.json, with their
operands already turned into lanes and lane sets (R62): the type has exactly the 18 values of the 18 legal
words. Execution contexts (R5, R167) beside them. -/

namespace Sys2Proof

/-- A lane index (R2, R9: lane 0 and lane 1). -/
inductive Lane where
  | l0
  | l1
deriving DecidableEq, Repr

/-- The other of the two lanes. -/
def Lane.other : Lane → Lane
  | .l0 => .l1
  | .l1 => .l0

/-- The lane-set operand of EDGE (R62): lane l is in the set exactly when w[l] = 1. -/
structure LaneSet where
  lane0 : Bool
  lane1 : Bool
deriving DecidableEq, Repr

/-- Whether a lane is in the set (R62). -/
def LaneSet.mem (m : LaneSet) : Lane → Bool
  | .l0 => m.lane0
  | .l1 => m.lane1

/-- The set of one lane. -/
def LaneSet.single : Lane → LaneSet
  | .l0 => { lane0 := true, lane1 := false }
  | .l1 => { lane0 := false, lane1 := true }

/-- The operations of R61, in the order of spec/opcode_table.json. -/
inductive Instr where
  | convt
  | convp
  | convh
  | ldcal
  | ldraw
  | init
  | task
  | gett
  | getp
  | geth
  | edge (m : LaneSet)
  | tick (l : Lane)
  | isact (l : Lane)
deriving DecidableEq, Repr

/-- The execution contexts (R5, R167). -/
inductive Context where
  | main
  | edgeh
  | tickh (l : Lane)
deriving DecidableEq, Repr

/-- The context that issues an operation in the real system (R60, R167). Nothing stops a test bench from issuing
any event from anywhere (R167), so no meaning reads it. -/
def Instr.context : Instr → Context
  | .convt   => .main
  | .convp   => .main
  | .convh   => .main
  | .ldcal   => .main
  | .ldraw   => .main
  | .init    => .main
  | .task    => .main
  | .gett    => .main
  | .getp    => .main
  | .geth    => .main
  | .edge _  => .edgeh
  | .tick l  => .tickh l
  | .isact _ => .main

/-- Whether an operation is one of the ten engine operations of R10 (the other three are the lane operations). -/
def Instr.isEngine : Instr → Bool
  | .convt   => true
  | .convp   => true
  | .convh   => true
  | .ldcal   => true
  | .ldraw   => true
  | .init    => true
  | .task    => true
  | .gett    => true
  | .getp    => true
  | .geth    => true
  | .edge _  => false
  | .tick _  => false
  | .isact _ => false

end Sys2Proof
end

