-- ==== Sys2Proof/WellFormed.lean ====
section
/-! DEFINITION. The checks on what reaches the machine from outside. An event word is well formed when it is none
of the reserved words of R63: four checks, one per condition of that rule, written from the rule and not from
the decoder. A configuration is well formed when its thresholds lie in the range of R6. Every value of `Instr`
is well formed: its operands are lanes and lane sets (R62), and its words are the 18 legal ones. -/

namespace Sys2Proof

namespace EventWord

/-- Field w[7:4] of an event word (R60). -/
def op (w : Byte) : Nat := w.toNat / 16

/-- Field w[3:2] of an event word (R60). -/
def zero (w : Byte) : Nat := w.toNat / 4 % 4

/-- Field w[1:0] of an event word (R60). -/
def arg (w : Byte) : Nat := w.toNat % 4

/-- R63, first condition, negated: op is none of 0x0, 0xE, 0xF. -/
def opAssigned (w : Byte) : Bool := 1 ≤ op w && op w ≤ 13

/-- R63, second condition, negated: w[3:2] = 0. -/
def zeroClear (w : Byte) : Bool := zero w == 0

/-- R63, third condition, negated: an operation without operand has w[1:0] = 0. -/
def argClear (w : Byte) : Bool := !(1 ≤ op w && op w ≤ 10) || arg w == 0

/-- R63, fourth condition, negated: TICK and ISACT have w[1] = 0. -/
def laneBitClear (w : Byte) : Bool := !(op w == 12 || op w == 13) || arg w / 2 == 0

/-- A legal event word: none of the four conditions of R63 makes it reserved. -/
def wf (w : Byte) : Bool := opAssigned w && zeroClear w && argClear w && laneBitClear w

end EventWord

namespace Config

/-- MIN_LANE_FULL_TICKS lies in 1 .. 2^16 - 1 (R6; the upper bound is the field's width). -/
def fullTicksInRange (c : Config) : Bool := c.minLaneFullTicks != 0

/-- MIN_LANE_EMPTY_TICKS lies in 1 .. 2^16 - 1 (R6). -/
def emptyTicksInRange (c : Config) : Bool := c.minLaneEmptyTicks != 0

/-- A configuration within the ranges of R6. -/
def wf (c : Config) : Bool := fullTicksInRange c && emptyTicksInRange c

end Config

end Sys2Proof
end

