-- ==== Sys2Proof/Decode.lean ====
section
/-! DEFINITION. The event-word decoder (R60 to R63), total on every byte and rejecting reserved words by name, and
after it the encoder, written from the table of R61; then the textual form of R70. -/

namespace Sys2Proof

/-- Why a word is reserved (R63). -/
inductive DecodeError where
  /-- op is 0x0, 0xE or 0xF. -/
  | opReserved
  /-- w[3:2] is not 0. -/
  | zeroFieldSet
  /-- w[1:0] is not 0 on an operation without operand. -/
  | argSet
  /-- w[1] is 1 on TICK or ISACT. -/
  | laneBitSet
deriving DecidableEq, Repr

/-- The lane set of EDGE: bit l of the field is lane l (R62). -/
def laneSetOf (arg : BitVec 2) : LaneSet where
  lane0 := arg.getLsbD 0
  lane1 := arg.getLsbD 1

/-- The lane index w[0] (R62). -/
def laneOf (b : Bool) : Lane := if b then .l1 else .l0

/-- An operation whose operand field must be 0 (R60). -/
def noOperand (arg : BitVec 2) (i : Instr) : Except DecodeError Instr :=
  if arg = 0 then .ok i else .error .argSet

/-- An operation with a lane index in w[0] and w[1] = 0 (R60, R62). -/
def laneOperand (arg : BitVec 2) (i : Lane → Instr) : Except DecodeError Instr :=
  if arg.getLsbD 1 then .error .laneBitSet else .ok (i (laneOf (arg.getLsbD 0)))

/-- The operation codes of R61 on the three fields of R60. -/
def decodeFields (op : BitVec 4) (zero arg : BitVec 2) : Except DecodeError Instr :=
  if zero ≠ 0 then .error .zeroFieldSet else
  match op.toNat with
  | 0x1 => noOperand arg .convt
  | 0x2 => noOperand arg .convp
  | 0x3 => noOperand arg .convh
  | 0x4 => noOperand arg .ldcal
  | 0x5 => noOperand arg .ldraw
  | 0x6 => noOperand arg .init
  | 0x7 => noOperand arg .task
  | 0x8 => noOperand arg .gett
  | 0x9 => noOperand arg .getp
  | 0xA => noOperand arg .geth
  | 0xB => .ok (.edge (laneSetOf arg))
  | 0xC => laneOperand arg .tick
  | 0xD => laneOperand arg .isact
  | _   => .error .opReserved

/-- Decode one event word (R60: op = w[7:4], zero = w[3:2], arg = w[1:0]). -/
def decodeWord (w : Byte) : Except DecodeError Instr :=
  decodeFields (w.extractLsb' 4 4) (w.extractLsb' 2 2) (w.extractLsb' 0 2)

/-- The byte that the nbits bits of w stand for; every bit above nbits is 0. -/
def tableByte (nbits w : Nat) : Byte := (BitVec.ofNat nbits w).setWidth 8

/-- The instruction the decoder reads from an opcode-table word; there is one length, 8 bits (R65). -/
def decodeTableWord (nbits w : Nat) : Option Instr :=
  if nbits ≤ 8 then
    match decodeWord (tableByte nbits w) with
    | .ok i    => some i
    | .error _ => none
  else none

/-- Assemble an event word from its fields (R60); the field w[3:2] is 0. -/
def eventWord (op : BitVec 4) (arg : BitVec 2) : Byte := op ++ (0#2 ++ arg)

/-- The field w[1:0] of a lane set (R62). -/
def laneSetField (m : LaneSet) : BitVec 2 := BitVec.ofBool m.lane1 ++ BitVec.ofBool m.lane0

/-- The field w[1:0] of a lane index (R62). -/
def laneField : Lane → BitVec 2
  | .l0 => 0
  | .l1 => 1

/-- The event word of an operation (R61). -/
def encode : Instr → Byte
  | .convt   => eventWord 0x1 0
  | .convp   => eventWord 0x2 0
  | .convh   => eventWord 0x3 0
  | .ldcal   => eventWord 0x4 0
  | .ldraw   => eventWord 0x5 0
  | .init    => eventWord 0x6 0
  | .task    => eventWord 0x7 0
  | .gett    => eventWord 0x8 0
  | .getp    => eventWord 0x9 0
  | .geth    => eventWord 0xA 0
  | .edge m  => eventWord 0xB (laneSetField m)
  | .tick l  => eventWord 0xC (laneField l)
  | .isact l => eventWord 0xD (laneField l)

/-! ### The textual form of an operation (R70), used by the vectors of spec/95; no meaning depends on it -/

/-- The mnemonics of R61. -/
def Instr.mnemonic : Instr → String
  | .convt   => "CONVT"
  | .convp   => "CONVP"
  | .convh   => "CONVH"
  | .ldcal   => "LDCAL"
  | .ldraw   => "LDRAW"
  | .init    => "INIT"
  | .task    => "TASK"
  | .gett    => "GETT"
  | .getp    => "GETP"
  | .geth    => "GETH"
  | .edge _  => "EDGE"
  | .tick _  => "TICK"
  | .isact _ => "ISACT"

/-- A lane index as text. -/
def Lane.text : Lane → String
  | .l0 => "0"
  | .l1 => "1"

/-- A lane set as text: its members between braces (characters 123 and 125), separated by a comma. -/
def LaneSet.text (m : LaneSet) : String :=
  let members := (if m.lane0 then ["0"] else []) ++ (if m.lane1 then ["1"] else [])
  String.ofList [Char.ofNat 123] ++ ",".intercalate members ++ String.ofList [Char.ofNat 125]

/-- One line of a trace: the mnemonic, then the operand (R70). -/
def Instr.text (i : Instr) : String :=
  match i with
  | .edge m  => i.mnemonic ++ " " ++ m.text
  | .tick l  => i.mnemonic ++ " " ++ l.text
  | .isact l => i.mnemonic ++ " " ++ l.text
  | .convt | .convp | .convh | .ldcal | .ldraw | .init | .task | .gett | .getp | .geth => i.mnemonic

/-- The pseudo-operations EDGE0 and EDGE1: `EDGE` of one lane (R70). -/
def edgeOf (l : Lane) : List Instr := [.edge (LaneSet.single l)]

/-- The pseudo-operation TICKS l, n: `TICK l` repeated n times (R70). -/
def ticks (l : Lane) (n : Nat) : List Instr := List.replicate n (.tick l)

end Sys2Proof
end

