-- ==== Sys2Proof/Machine/State.lean ====
section
/-! DEFINITION. The state (10_state.md). `engine`, `lanes` and `ie` are the architectural state of R10, parts (a), (b)
and (c), whole. `cfg` holds the parameters of R6, fixed for a machine (log entry 1). `env` is what the outside
world has yet to deliver (R24, R43, R60) and `out` is what the machine has sent it (R64, R137, R166); neither is
architectural state, and both are lists, so that a state can be written out and compared. -/

namespace Sys2Proof.Machine

/-- The reasons the machine stops with a fault. There is none: no arithmetic operation traps (R153), an error of
an operation is a status and not a stop (R157), a handler cannot fail (R164), and the DWSC has no halt (R183). -/
inductive Fault where
deriving DecidableEq, Repr

/-- The reasons an operation has no meaning. -/
inductive Refusal where
  /-- Raised only by an arm of `exec` whose instruction has no meaning yet; no arm is of that kind. Safe. -/
  | notModelled (mnemonic : String)
deriving DecidableEq, Repr

/-- The calibration registers x[0] .. x[17] (R11, CalibrationSet). A comment `u` or `s` gives the signedness of
R11; the values are read through `toNat` and `toInt` accordingly (R9). -/
structure Calibration where
  digT1 : Half -- u16
  digT2 : Half -- s16
  digT3 : Half -- s16
  digP1 : Half -- u16
  digP2 : Half -- s16
  digP3 : Half -- s16
  digP4 : Half -- s16
  digP5 : Half -- s16
  digP6 : Half -- s16
  digP7 : Half -- s16
  digP8 : Half -- s16
  digP9 : Half -- s16
  digH1 : Byte -- u8
  digH2 : Half -- s16
  digH3 : Byte -- u8
  digH4 : Half -- s16
  digH5 : Half -- s16
  digH6 : Byte -- s8
deriving DecidableEq, Repr

/-- The raw sample registers x[18] .. x[20] (R11, R13), each in a signed 32-bit container. -/
structure RawSample where
  adcP : Word
  adcT : Word
  adcH : Word
deriving DecidableEq, Repr

/-- The engine state (R10 (a)): the 25 data registers of R11 and the two flags of R16. -/
structure Engine where
  cal        : Calibration
  raw        : RawSample
  /-- x[21], s32 (R14). -/
  tFine      : Word
  /-- x[22], s32 in 0.01 degC (R15). -/
  outT       : Word
  /-- x[23], u32 in Q24.8 Pa (R15). -/
  outP       : Word
  /-- x[24], u32 in Q22.10 %RH (R15). -/
  outH       : Word
  ready      : Bool
  tfineValid : Bool
deriving DecidableEq, Repr

/-- The committed state of a lane (R17, R135): EMPTY = 0, FULL = 1. -/
inductive Occupancy where
  | empty
  | full
deriving DecidableEq, Repr

/-- The one-bit encoding of R17. -/
def Occupancy.code : Occupancy → Nat
  | .empty => 0
  | .full  => 1

/-- The three registers of one lane (R17); the counter is CNT_W = 16 bits wide (R6). -/
structure LaneState where
  state   : Occupancy
  armed   : Bool
  counter : Half
deriving DecidableEq, Repr

/-- The lane state (R10 (b)). -/
structure Lanes where
  lane0 : LaneState
  lane1 : LaneState
deriving DecidableEq, Repr

/-- The status codes of R150; a status other than `ok` stands for the exception of its row. -/
inductive Status where
  | ok
  | busError
  | initFailure
  | staleTfine
  | notReady
  | illegal
deriving DecidableEq, Repr

/-- The numbers of R150. -/
def Status.code : Status → Nat
  | .ok          => 0
  | .busError    => 1
  | .initFailure => 2
  | .staleTfine  => 3
  | .notReady    => 4
  | .illegal     => 5

/-- The response of an operation issued by MAIN (R64). -/
structure Response where
  status : Status
  value  : Word
deriving DecidableEq, Repr

/-- One event sent to the diagnostic sink: status and info, no text (R166). -/
structure Diagnostic where
  status : Status
  info   : Word
deriving DecidableEq, Repr

/-- A transaction the machine asks of the bus: the three kinds it uses of those of R41. -/
inductive BusTransaction where
  | ping (device : DevAddr)
  | writeRegister (device : DevAddr) (register : Byte) (byte : Byte)
  | readRegisters (device : DevAddr) (register : Byte) (count : Nat)
deriving DecidableEq, Repr

/-- One stimulus: an event word (R60), or the reset input, which has no event word (R175). -/
inductive Input where
  | word (w : Byte)
  | reset
deriving DecidableEq, Repr

/-- What the outside world has yet to deliver: the stimuli to come, next first (R60, R161); the bus answers to
come, next first (R43); and the number of bus transactions made, the model's own counter, at which the free
value `Config.busOracle` is read when no answer is queued (log entry 4). -/
structure Environment where
  inputs   : List Input
  busIn    : List BusAnswer
  busCount : Nat
deriving DecidableEq, Repr

/-- What the machine has sent to each collaborator: the responses to MAIN (R64), the transactions to BUS (R41) and
the events to DIAG (R166), each NEWEST FIRST, and the number of restarts sent to TIMER0 and TIMER1 (R137). No
rule reads it (log entry 6). -/
structure Outputs where
  responses : List Response
  bus       : List BusTransaction
  diag      : List Diagnostic
  restarts0 : Nat
  restarts1 : Nat
deriving DecidableEq, Repr

/-- The state. -/
structure State where
  /-- R10 (a). -/
  engine : Engine
  /-- R10 (b). -/
  lanes  : Lanes
  /-- The global interrupt enable (R10 (c), R18). -/
  ie     : Bool
  /-- The parameters of R6, fixed: no step writes them (R19, R24; log entry 1). -/
  cfg    : Config
  env    : Environment
  out    : Outputs
deriving DecidableEq, Repr

/-- All 18 calibration registers 0 (R22). -/
def Calibration.zero : Calibration where
  digT1 := 0
  digT2 := 0
  digT3 := 0
  digP1 := 0
  digP2 := 0
  digP3 := 0
  digP4 := 0
  digP5 := 0
  digP6 := 0
  digP7 := 0
  digP8 := 0
  digP9 := 0
  digH1 := 0
  digH2 := 0
  digH3 := 0
  digH4 := 0
  digH5 := 0
  digH6 := 0

/-- The engine after reset (R22). -/
def Engine.reset : Engine where
  cal        := Calibration.zero
  raw        := { adcP := 0, adcT := 0, adcH := 0 }
  tFine      := 0
  outT       := 0
  outP       := 0
  outH       := 0
  ready      := false
  tfineValid := false

/-- A lane after reset: (EMPTY, armed 0, counter 0) (R22). -/
def LaneState.reset : LaneState := { state := .empty, armed := false, counter := 0 }

/-- Both lanes after reset (R22). -/
def Lanes.reset : Lanes := { lane0 := LaneState.reset, lane1 := LaneState.reset }

/-- Nothing delivered yet and nothing queued: nothing executes until an event arrives (R22, R175). -/
def Environment.start : Environment := { inputs := [], busIn := [], busCount := 0 }

/-- Nothing sent yet. -/
def Outputs.start : Outputs := { responses := [], bus := [], diag := [], restarts0 := 0, restarts1 := 0 }

/-- The reset state of the instance with parameters `c` (R22, R175). -/
def State.resetWith (c : Config) : State where
  engine := Engine.reset
  lanes  := Lanes.reset
  ie     := true
  cfg    := c
  env    := Environment.start
  out    := Outputs.start

/-- The machine right after reset (R22, R175), its OPEN parameters free values (log entry 2). -/
def State.reset : State := State.resetWith Config.device

end Sys2Proof.Machine
end

