-- ==== Sys2Proof/Machine/Flags.lean ====
section
/-! DEFINITION. The flags: `ready` and `tfine_valid` of the engine (R16) and the interrupt enable `ie` (R18). There are
no arithmetic condition codes (R16). -/

namespace Sys2Proof.Machine

/-- tfine_valid <- 1 (R16, R81). -/
def setTfineValid (s : State) : State := { s with engine := { s.engine with tfineValid := true } }

/-- tfine_valid <- 0 (R16, R110, R112). -/
def clearTfineValid (s : State) : State := { s with engine := { s.engine with tfineValid := false } }

/-- ready <- 1 (R16, R120 step 7). -/
def setReady (s : State) : State := { s with engine := { s.engine with ready := true } }

/-- ready <- 0 (R16, R120 step 0). -/
def clearReady (s : State) : State := { s with engine := { s.engine with ready := false } }

/-- ie <- 0, the first action of every handler (R18, R163). -/
def disableInterrupts (s : State) : State := { s with ie := false }

/-- ie <- 1, the last action of every handler (R18, R164). -/
def enableInterrupts (s : State) : State := { s with ie := true }

end Sys2Proof.Machine
end

