-- ==== Sys2Proof/Machine/Arith.lean ====
section
/-! DEFINITION. The arithmetic primitives of R8, on mathematical integers, each with its width imposed at the end as
the rule writes it (OVERFLOW_MODE = wrap, R6). -/

namespace Sys2Proof.Machine

/-- The w in -2^31 .. 2^31 - 1 with w = v (mod 2^32) (R8). -/
def wrap32 (v : Int) : Int := (v + 2147483648) % 4294967296 - 2147483648

/-- The w in -2^63 .. 2^63 - 1 with w = v (mod 2^64) (R8). -/
def wrap64 (v : Int) : Int := (v + 9223372036854775808) % 18446744073709551616 - 9223372036854775808

def add32 (a b : Int) : Int := wrap32 (a + b)
def sub32 (a b : Int) : Int := wrap32 (a - b)
def mul32 (a b : Int) : Int := wrap32 (a * b)
def shl32 (a : Int) (n : Nat) : Int := wrap32 (a * ((2 ^ n : Nat) : Int))

def add64 (a b : Int) : Int := wrap64 (a + b)
def sub64 (a b : Int) : Int := wrap64 (a - b)
def mul64 (a b : Int) : Int := wrap64 (a * b)
def shl64 (a : Int) (n : Nat) : Int := wrap64 (a * ((2 ^ n : Nat) : Int))

/-- Arithmetic right shift: floor(a / 2^n) (R8); integer division by a positive number floors. -/
def asr (a : Int) (n : Nat) : Int := a / ((2 ^ n : Nat) : Int)

/-- The one division: quotient toward zero, then wrapped; sdiv64(-2^63, -1) = -2^63 (R8, R94). Never evaluated at
b = 0 (R93). -/
def sdiv64 (a b : Int) : Int := wrap64 (a.tdiv b)

/-- v mod 2^32, in 0 .. 2^32 - 1 (R8). -/
def u32 (v : Int) : Int := v % 4294967296

/-- The N-bit pattern v read as a two's-complement number (R7). -/
def sext (n : Nat) (v : Nat) : Int :=
  if 2 ^ (n - 1) ≤ v then (v : Int) - ((2 ^ n : Nat) : Int) else (v : Int)

/-- The slice v[hi:lo] (R7). -/
def slice (v hi lo : Nat) : Nat := v / 2 ^ lo % 2 ^ (hi - lo + 1)

/-- The 32-bit pattern a register or a response holds for the value v (R7: a register write stores v unchanged; R64). -/
def toWord (v : Int) : Word := BitVec.ofInt 32 v

end Sys2Proof.Machine
end

