-- ==== Sys2Proof/Machine/Operands.lean ====
section
/-! DEFINITION. The operand forms. The event word carries only a lane set or a lane index (R62); everything else an
operation takes is a register or a burst of bytes, assembled into register values by R66, R67 and R68. The
numbering x[0] .. x[24] of R11 stands here too, as a view of the registers. -/

namespace Sys2Proof.Machine

/-- Byte k of a burst, as a number (R7: byte k is register addr + k). A read answers exactly the count of bytes
asked for (R41), so every index below lies inside its burst. -/
def byteVal (bs : List Byte) (k : Nat) : Nat := (bs.getD k 0).toNat

/-- le16(k) = a[k] + 256 * a[k+1] (R66). -/
def le16 (bs : List Byte) (k : Nat) : Nat := byteVal bs k + 256 * byteVal bs (k + 1)

/-- A signed little-endian coefficient, sext_16(le16(k)) (R66). -/
def les16 (bs : List Byte) (k : Nat) : Half := BitVec.ofInt 16 (sext 16 (le16 bs k))

/-- An unsigned little-endian coefficient, le16(k) (R66). -/
def leu16 (bs : List Byte) (k : Nat) : Half := BitVec.ofNat 16 (le16 bs k)

/-- The 12-bit pattern h4 of R67: e[3] is bits 11:4, the low nibble of e[4] is bits 3:0. -/
def h4Pattern (e : List Byte) : Nat := 16 * byteVal e 3 + slice (byteVal e 4) 3 0

/-- The 12-bit pattern h5 of R67: e[5] is bits 11:4, the high nibble of e[4] is bits 3:0. -/
def h5Pattern (e : List Byte) : Nat := 16 * byteVal e 5 + slice (byteVal e 4) 7 4

/-- A paired-nibble coefficient: sext_12 when H45_SIGN_EXTEND, else the pattern itself (R67). -/
def pairedNibble (h45SignExtend : Bool) (h : Nat) : Half :=
  BitVec.ofInt 16 (if h45SignExtend then sext 12 h else (h : Int))

/-- The eighteen coefficients of calibration block A (26 bytes, R66) and block B (7 bytes, R67). Byte a[24] is read
and ignored. -/
def unpackCalibration (h45SignExtend : Bool) (a e : List Byte) : Calibration where
  digT1 := leu16 a 0
  digT2 := les16 a 2
  digT3 := les16 a 4
  digP1 := leu16 a 6
  digP2 := les16 a 8
  digP3 := les16 a 10
  digP4 := les16 a 12
  digP5 := les16 a 14
  digP6 := les16 a 16
  digP7 := les16 a 18
  digP8 := les16 a 20
  digP9 := les16 a 22
  digH1 := BitVec.ofNat 8 (byteVal a 25)
  digH2 := BitVec.ofInt 16 (sext 16 (byteVal e 0 + 256 * byteVal e 1))
  digH3 := BitVec.ofNat 8 (byteVal e 2)
  digH4 := pairedNibble h45SignExtend (h4Pattern e)
  digH5 := pairedNibble h45SignExtend (h5Pattern e)
  digH6 := BitVec.ofInt 8 (sext 8 (byteVal e 6))

/-- A 20-bit count: MSB, LSB and the high nibble of XLSB at bytes k, k+1, k+2 (R68). -/
def count20 (d : List Byte) (k : Nat) : Nat :=
  4096 * byteVal d k + 16 * byteVal d (k + 1) + slice (byteVal d (k + 2)) 7 4

/-- A 16-bit count, most significant byte first (R68). -/
def count16 (d : List Byte) (k : Nat) : Nat := 256 * byteVal d k + byteVal d (k + 1)

/-- The raw sample of the eight-byte burst (R68). -/
def unpackRaw (d : List Byte) : RawSample where
  adcP := BitVec.ofNat 32 (count20 d 0)
  adcT := BitVec.ofNat 32 (count20 d 3)
  adcH := BitVec.ofNat 32 (count16 d 6)

/-- The engine data registers by name (R11). -/
inductive Reg where
  | digT1
  | digT2
  | digT3
  | digP1
  | digP2
  | digP3
  | digP4
  | digP5
  | digP6
  | digP7
  | digP8
  | digP9
  | digH1
  | digH2
  | digH3
  | digH4
  | digH5
  | digH6
  | adcP
  | adcT
  | adcH
  | tFine
  | outT
  | outP
  | outH
deriving DecidableEq, Repr

/-- The number i of x[i] (R11). -/
def Reg.number : Reg → Nat
  | .digT1 => 0
  | .digT2 => 1
  | .digT3 => 2
  | .digP1 => 3
  | .digP2 => 4
  | .digP3 => 5
  | .digP4 => 6
  | .digP5 => 7
  | .digP6 => 8
  | .digP7 => 9
  | .digP8 => 10
  | .digP9 => 11
  | .digH1 => 12
  | .digH2 => 13
  | .digH3 => 14
  | .digH4 => 15
  | .digH5 => 16
  | .digH6 => 17
  | .adcP  => 18
  | .adcT  => 19
  | .adcH  => 20
  | .tFine => 21
  | .outT  => 22
  | .outP  => 23
  | .outH  => 24

/-- The value of x[i], signed or unsigned as the register's type in R11 says. -/
def Engine.x (e : Engine) : Reg → Int
  | .digT1 => e.cal.digT1.toNat
  | .digT2 => e.cal.digT2.toInt
  | .digT3 => e.cal.digT3.toInt
  | .digP1 => e.cal.digP1.toNat
  | .digP2 => e.cal.digP2.toInt
  | .digP3 => e.cal.digP3.toInt
  | .digP4 => e.cal.digP4.toInt
  | .digP5 => e.cal.digP5.toInt
  | .digP6 => e.cal.digP6.toInt
  | .digP7 => e.cal.digP7.toInt
  | .digP8 => e.cal.digP8.toInt
  | .digP9 => e.cal.digP9.toInt
  | .digH1 => e.cal.digH1.toNat
  | .digH2 => e.cal.digH2.toInt
  | .digH3 => e.cal.digH3.toNat
  | .digH4 => e.cal.digH4.toInt
  | .digH5 => e.cal.digH5.toInt
  | .digH6 => e.cal.digH6.toInt
  | .adcP  => e.raw.adcP.toInt
  | .adcT  => e.raw.adcT.toInt
  | .adcH  => e.raw.adcH.toInt
  | .tFine => e.tFine.toInt
  | .outT  => e.outT.toInt
  | .outP  => e.outP.toNat
  | .outH  => e.outH.toNat

/-- The integer-pascal view of the pressure output, `asr(out_P, 8)` (R15, R125). No operation returns it. -/
def Engine.pascals (e : Engine) : Int := asr e.outP.toNat 8

/-- The registers of lane l (R17). -/
def Lanes.get (ls : Lanes) : Lane → LaneState
  | .l0 => ls.lane0
  | .l1 => ls.lane1

/-- Replace the registers of lane l and no other. -/
def Lanes.set (ls : Lanes) (l : Lane) (x : LaneState) : Lanes :=
  match l with
  | .l0 => { ls with lane0 := x }
  | .l1 => { ls with lane1 := x }

/-- The registers of lane l in a state. -/
def State.lane (s : State) (l : Lane) : LaneState := s.lanes.get l

/-- Write the registers of lane l. -/
def State.setLane (s : State) (l : Lane) (x : LaneState) : State := { s with lanes := s.lanes.set l x }

end Sys2Proof.Machine
end

