-- ==== Sys2Proof/Machine/Ops.lean ====
section
/-! DEFINITION. The shared operations: bus transactions (R41, R43), the steps of an operation and how they fail (R7
`raise`, R158), answering MAIN (R64, R150), handler entry and return (R163, R164), the timer restart (R137),
the reset input (R175) and taking the next stimulus (R60). -/

namespace Sys2Proof.Machine

/-! ### The bus (R41, R43) -/

/-- The answer the bus gives to the next transaction: the next one queued, else a free value (R43; log entry 4). -/
def busAnswer (s : State) : BusAnswer :=
  match s.env.busIn with
  | a :: _ => a
  | []     => Config.busOracle s.env.busCount

/-- Send a transaction and consume its answer. -/
def transact (t : BusTransaction) (s : State) : State :=
  { s with
    env := { s.env with busIn := s.env.busIn.tail, busCount := s.env.busCount + 1 }
    out := { s.out with bus := t :: s.out.bus } }

/-- `ping` answers true, or a write answers Ok, exactly on an acknowledgement (R41; log entry 5). -/
def isAck : BusAnswer → Bool
  | .fail    => false
  | .ack     => true
  | .bytes _ => false

/-- The n bytes of a successful read; anything else is a failure: a transaction succeeds wholly or fails wholly
(R41; log entry 5). -/
def readResult (n : Nat) : BusAnswer → Option (List Byte)
  | .fail     => none
  | .ack      => none
  | .bytes bs => if bs.length = n then some bs else none

/-- The outcome of the steps of an operation: done with a result, or ended by an exception with an info value, and
the state so far either way (R7, R157). -/
inductive Attempt (α : Type) where
  | ok (a : α) (s : State)
  | raised (e : Status) (info : Nat) (s : State)

/-- Run the next step unless one has failed (R158: the first failure ends the operation). -/
def Attempt.andThen {α β : Type} (x : Attempt α) (k : α → State → Attempt β) : Attempt β :=
  match x with
  | .ok a s          => k a s
  | .raised e info s => .raised e info s

/-- Report any failure of a step as the given exception instead (R120, R151: inside INIT every failure is an
InitializationFailure). -/
def Attempt.reportAs {α : Type} (e : Status) (info : Nat) (x : Attempt α) : Attempt α :=
  match x with
  | .ok a s         => .ok a s
  | .raised _ _ s   => .raised e info s

/-- `ping(DEV_ADDR)`, raising the given exception when it answers false (R41, R120). -/
def ping (e : Status) (info : Nat) (s : State) : Attempt Unit :=
  let s' := transact (.ping s.cfg.devAddr) s
  if isAck (busAnswer s) then .ok () s' else .raised e info s'

/-- `MemWrite(r, 1, b)`, raising the given exception on Fail (R41). -/
def memWrite (r b : Byte) (e : Status) (info : Nat) (s : State) : Attempt Unit :=
  let s' := transact (.writeRegister s.cfg.devAddr r b) s
  if isAck (busAnswer s) then .ok () s' else .raised e info s'

/-- `MemRead(r, n)`, raising the given exception on Fail (R41). -/
def memRead (r : Byte) (n : Nat) (e : Status) (info : Nat) (s : State) : Attempt (List Byte) :=
  let s' := transact (.readRegisters s.cfg.devAddr r n) s
  match readResult n (busAnswer s) with
  | some bs => .ok bs s'
  | none    => .raised e info s'

/-! ### Answering MAIN (R64, R150, R166) -/

/-- Return `(status, value)` to MAIN (R64). -/
def respond (st : Status) (v : Word) (s : State) : State :=
  { s with out := { s.out with responses := { status := st, value := v } :: s.out.responses } }

/-- Send one event to DIAG (R166). -/
def diagnose (st : Status) (info : Word) (s : State) : State :=
  { s with out := { s.out with diag := { status := st, info := info } :: s.out.diag } }

/-- Take an exception: the operation ends, its status and info are the response, and one diagnostic event goes to
DIAG (R7 `raise`, R150, R157, R166). Nothing is saved and nothing is unwound. -/
def raise (e : Status) (info : Nat) (s : State) : State :=
  respond e (BitVec.ofNat 32 info) (diagnose e (BitVec.ofNat 32 info) s)

/-- End a MAIN operation: `return (OK, v)`, or the exception its steps raised (R64, R150). -/
def conclude (x : Attempt Word) : State :=
  match x with
  | .ok v s          => respond .ok v s
  | .raised e info s => raise e info s

/-- The answer to a reserved event word: status ILLEGAL, value 0, nothing else (R63, R156); R166 names no
diagnostic event for it (log entry 7). -/
def answerIllegal (s : State) : State := respond .illegal 0 s

/-! ### Handlers, timers, reset, stimuli -/

/-- A handler: disable interrupts, run the body, enable them again (R18, R163, R164). Entry saves nothing and
return restores nothing. -/
def handler (body : State → State) (s : State) : State := enableInterrupts (body (disableInterrupts s))

/-- Send a restart to TIMER l (R137). -/
def restartTimer (l : Lane) (s : State) : State :=
  match l with
  | .l0 => { s with out := { s.out with restarts0 := s.out.restarts0 + 1 } }
  | .l1 => { s with out := { s.out with restarts1 := s.out.restarts1 + 1 } }

/-- The reset input: every piece of architectural state at its value of R22, at once, and nothing on the bus
(R175); the parameters hold (R184), and what is queued and what was sent is the outside world's (log entry 8). -/
def applyReset (s : State) : State :=
  { s with engine := Engine.reset, lanes := Lanes.reset, ie := true }

/-- Take the next stimulus off the queue (R60), if there is one. -/
def nextInput (s : State) : Option (Input × State) :=
  match s.env.inputs with
  | []        => none
  | i :: rest => some (i, { s with env := { s.env with inputs := rest } })

/-- Put an event word where `nextInput` takes the next stimulus. -/
def queueWord (w : Byte) (s : State) : State :=
  { s with env := { s.env with inputs := .word w :: s.env.inputs } }

end Sys2Proof.Machine
end

