-- ==== Sys2Proof/Machine/Detect.lean ====
section
/-! DEFINITION. The lane occupancy detector: EDGE (R136, R137), TICK (R138) and ISACT (R139). -/

namespace Sys2Proof.Machine

/-- `thr`: the threshold of the state a lane is in (R138, R140). -/
def threshold (c : Config) (x : LaneState) : Half :=
  match x.state with
  | .full  => c.minLaneEmptyTicks
  | .empty => c.minLaneFullTicks

/-- The state a commit goes to (R138). -/
def Occupancy.toggle : Occupancy → Occupancy
  | .full  => .empty
  | .empty => .full

/-- What an edge does to a lane it names: counter 0, armed (R136). -/
def edgeLane (x : LaneState) : LaneState := { x with counter := 0, armed := true }

/-- What a tick does to its lane (R138): the comparison takes the counter after the increment and the state before
any change, and "reaches" is equality. -/
def tickLane (c : Config) (x : LaneState) : LaneState :=
  if x.armed then
    let n := x.counter + 1
    if n = threshold c x then { state := x.state.toggle, armed := false, counter := n }
    else { x with counter := n }
  else x

/-- One pass of EDGE's loop: the lane's registers, then the restart of its timer (R136). -/
def edgeOne (l : Lane) (s : State) : State := restartTimer l (s.setLane l (edgeLane (s.lane l)))

/-- The body of the edge handler: each lane of the set (R136). -/
def edgeBody (m : LaneSet) (s : State) : State :=
  let s := if m.mem .l0 then edgeOne .l0 s else s
  if m.mem .l1 then edgeOne .l1 s else s

/-- The body of the tick handler (R138). -/
def tickBody (l : Lane) (s : State) : State := s.setLane l (tickLane s.cfg (s.lane l))

/-- EDGE m (R136). -/
def execEdge (m : LaneSet) (s : State) : Host.Outcome State Fault Refusal := .next (handler (edgeBody m) s)

/-- TICK l (R138). -/
def execTick (l : Lane) (s : State) : Host.Outcome State Fault Refusal := .next (handler (tickBody l) s)

/-- ISACT l (R139): 1 exactly when the lane's state is FULL. -/
def execIsact (l : Lane) (s : State) : Host.Outcome State Fault Refusal :=
  .next (respond .ok (BitVec.ofNat 32 (s.lane l).state.code) s)

end Sys2Proof.Machine
end

