-- ==== Sys2Proof/Machine/Compensate.lean ====
section
/-! DEFINITION. The pure compensation functions `compT` (R80), `compP` (R91) and `compH` (R100), step by step as the
rules' pseudocode has them, over the primitives of R8. The constants and shift counts are the spec's, which
supplies them from general knowledge (spec/93 G9, G10, G12). -/

namespace Sys2Proof.Machine

/-! ### Temperature (R80) -/

/-- The first term: `asr(mul32(sub32(asr(adc_T, 3), shl32(dig_T1, 1)), dig_T2), 11)`. -/
def compTVar1 (adcT t1 t2 : Int) : Int :=
  asr (mul32 (sub32 (asr adcT 3) (shl32 t1 1)) t2) 11

/-- The second term, from the square of `sub32(asr(adc_T, 4), dig_T1)`. -/
def compTVar2 (adcT t1 t3 : Int) : Int :=
  let d4 := sub32 (asr adcT 4) t1
  asr (mul32 (asr (mul32 d4 d4) 12) t3) 14

/-- `t_fine`. -/
def compTFine (adcT t1 t2 t3 : Int) : Int :=
  add32 (compTVar1 adcT t1 t2) (compTVar2 adcT t1 t3)

/-- The output step: `asr(add32(mul32(t_fine, 5), 128), 8)`. -/
def compTOut (tFine : Int) : Int := asr (add32 (mul32 tFine 5) 128) 8

/-- `compT`: the pair (T, t_fine) (R80). -/
def compT (adcT t1 t2 t3 : Int) : Int × Int :=
  let tFine := compTFine adcT t1 t2 t3
  (compTOut tFine, tFine)

/-! ### Pressure (R91) -/

/-- `v2` after all three of its terms. -/
def compPV2 (tFine p4 p5 p6 : Int) : Int :=
  let v1 := sub64 tFine 128000
  let sq := mul64 v1 v1
  let v2 := mul64 sq p6
  let v2 := add64 v2 (shl64 (mul64 v1 p5) 17)
  add64 v2 (shl64 p4 35)

/-- `v1b`. -/
def compPV1b (tFine p2 p3 : Int) : Int :=
  let v1 := sub64 tFine 128000
  let sq := mul64 v1 v1
  add64 (asr (mul64 sq p3) 8) (shl64 (mul64 v1 p2) 12)

/-- `den`, the first-stage denominator term; 140737488355328 = 2^47. -/
def compPDen (tFine p1 p2 p3 : Int) : Int :=
  asr (mul64 (add64 140737488355328 (compPV1b tFine p2 p3)) p1) 33

/-- The quotient of R94: `sdiv64(mul64(sub64(shl64(2^20 - adc_P, 31), v2), 3125), den)`. -/
def compPQuot (adcP v2 den : Int) : Int :=
  sdiv64 (mul64 (sub64 (shl64 (sub64 1048576 adcP) 31) v2) 3125) den

/-- The final stage, on the quotient. -/
def compPFinal (p p7 p8 p9 : Int) : Int :=
  let h := asr p 13
  let v1c := asr (mul64 (mul64 p9 h) h) 25
  let v2c := asr (mul64 p8 p) 19
  add64 (asr (add64 (add64 p v1c) v2c) 8) (shl64 p7 4)

/-- `compP`: pressure in Q24.8 pascal, 0 when the denominator term is 0 (R91, R93, R94). -/
def compP (adcP tFine p1 p2 p3 p4 p5 p6 p7 p8 p9 : Int) : Int :=
  let den := compPDen tFine p1 p2 p3
  if den = 0 then 0
  else u32 (compPFinal (compPQuot adcP (compPV2 tFine p4 p5 p6) den) p7 p8 p9)

/-! ### Humidity (R100) -/

/-- `a`. -/
def compHA (adcH x h4 h5 : Int) : Int :=
  asr (add32 (sub32 (sub32 (shl32 adcH 14) (shl32 h4 20)) (mul32 h5 x)) 16384) 15

/-- `b`. -/
def compHB (x h2 h3 h6 : Int) : Int :=
  let b1 := asr (mul32 x h6) 10
  let b2 := add32 (asr (mul32 x h3) 11) 32768
  let b := add32 (asr (mul32 b1 b2) 10) 2097152
  asr (add32 (mul32 b h2) 8192) 14

/-- The correction of `v` by `dig_H1`. -/
def compHCorrect (v h1 : Int) : Int :=
  let s := asr v 15
  sub32 v (asr (mul32 (asr (mul32 s s) 7) h1) 4)

/-- The clamp to the closed range [0, 0x19000000] (R101). -/
def clampH (v : Int) : Int :=
  if v < 0 then 0 else if v > 0x19000000 then 0x19000000 else v

/-- `compH`: relative humidity in Q22.10 percent (R100). -/
def compH (adcH tFine h1 h2 h3 h4 h5 h6 : Int) : Int :=
  let x := sub32 tFine 76800
  let v := mul32 (compHA adcH x h4 h5) (compHB x h2 h3 h6)
  u32 (asr (clampH (compHCorrect v h1)) 12)

end Sys2Proof.Machine
end

