-- ==== Sys2Proof/Machine/Convert.lean ====
section
/-! DEFINITION. The conversions CONVT (R81), CONVP (R95) and CONVH (R102). The steps of each stand apart from its
answer, because TASK runs the same steps (R122). -/

namespace Sys2Proof.Machine

/-- `compT` on the registers (R80, R81). -/
def temperatureOf (e : Engine) : Int × Int :=
  compT e.raw.adcT.toInt e.cal.digT1.toNat e.cal.digT2.toInt e.cal.digT3.toInt

/-- `compP` on the registers (R90, R95). -/
def pressureOf (e : Engine) : Int :=
  compP e.raw.adcP.toInt e.tFine.toInt e.cal.digP1.toNat e.cal.digP2.toInt e.cal.digP3.toInt
    e.cal.digP4.toInt e.cal.digP5.toInt e.cal.digP6.toInt e.cal.digP7.toInt e.cal.digP8.toInt
    e.cal.digP9.toInt

/-- `compH` on the registers (R100, R102). -/
def humidityOf (e : Engine) : Int :=
  compH e.raw.adcH.toInt e.tFine.toInt e.cal.digH1.toNat e.cal.digH2.toInt e.cal.digH3.toNat
    e.cal.digH4.toInt e.cal.digH5.toInt e.cal.digH6.toInt

/-- The steps of CONVT (R81): `t_fine`, `out_T` less the trim, `tfine_valid <- 1`; the value is `out_T`. -/
def convtSteps (s : State) : Attempt Word :=
  let r := temperatureOf s.engine
  let t := toWord (sub32 r.1 s.cfg.tempOffset.toInt)
  .ok t (setTfineValid { s with engine := { s.engine with tFine := toWord r.2, outT := t } })

/-- The steps of CONVP (R95): StaleFineTemperature unless `tfine_valid`, then `out_P`; the value is `out_P`. -/
def convpSteps (s : State) : Attempt Word :=
  if s.engine.tfineValid then
    let p := toWord (pressureOf s.engine)
    .ok p { s with engine := { s.engine with outP := p } }
  else .raised .staleTfine 0 s

/-- The steps of CONVH (R102): StaleFineTemperature unless `tfine_valid`, then `out_H`; the value is `out_H`. -/
def convhSteps (s : State) : Attempt Word :=
  if s.engine.tfineValid then
    let h := toWord (humidityOf s.engine)
    .ok h { s with engine := { s.engine with outH := h } }
  else .raised .staleTfine 0 s

/-- CONVT (R81). -/
def execConvt (s : State) : Host.Outcome State Fault Refusal := .next (conclude (convtSteps s))

/-- CONVP (R95). -/
def execConvp (s : State) : Host.Outcome State Fault Refusal := .next (conclude (convpSteps s))

/-- CONVH (R102). -/
def execConvh (s : State) : Host.Outcome State Fault Refusal := .next (conclude (convhSteps s))

end Sys2Proof.Machine
end

