-- ==== Sys2Proof/Machine/Load.lean ====
section
/-! DEFINITION. The loads from the sensor: LDCAL (R110, R111) and LDRAW (R112). INIT runs the steps of both and TASK
those of LDRAW (R120, R122). -/

namespace Sys2Proof.Machine

/-- Write all eighteen calibration registers (R110, R111). -/
def writeCalibration (c : Calibration) (s : State) : State := { s with engine := { s.engine with cal := c } }

/-- Write the three raw sample registers (R112). -/
def writeRaw (r : RawSample) (s : State) : State := { s with engine := { s.engine with raw := r } }

/-- The steps of LDCAL (R110): both reads, block A first, before any register is written. -/
def ldcalSteps (s : State) : Attempt Word :=
  (memRead s.cfg.regCalA 26 .busError 1 s).andThen fun a s =>
  (memRead s.cfg.regCalB 7 .busError 2 s).andThen fun b s =>
  .ok 0 (clearTfineValid (writeCalibration (unpackCalibration s.cfg.h45SignExtend a b) s))

/-- The steps of LDRAW (R112). -/
def ldrawSteps (s : State) : Attempt Word :=
  (memRead s.cfg.regData 8 .busError 1 s).andThen fun d s =>
  .ok 0 (clearTfineValid (writeRaw (unpackRaw d) s))

/-- LDCAL (R110). -/
def execLdcal (s : State) : Host.Outcome State Fault Refusal := .next (conclude (ldcalSteps s))

/-- LDRAW (R112). -/
def execLdraw (s : State) : Host.Outcome State Fault Refusal := .next (conclude (ldrawSteps s))

end Sys2Proof.Machine
end

