-- ==== Sys2Proof/Machine/Sequence.lean ====
section
/-! DEFINITION. The composite operations INIT (R120) and TASK (R122) and the getters GETT, GETP, GETH (R124 to R126).
The step index `seq` of R20 is the place in the chain; it is no state (R20). -/

namespace Sys2Proof.Machine

/-- The steps of INIT (R120): `ready <- 0`, ping, three configuration writes, calibration, raw sample,
`ready <- 1`. Step k raises InitializationFailure(k); the effects of the steps before it remain. -/
def initSteps (s : State) : Attempt Word :=
  (ping .initFailure 1 (clearReady s)).andThen fun _ s =>
  (memWrite s.cfg.regCtrlHum s.cfg.cfgHum .initFailure 2 s).andThen fun _ s =>
  (memWrite s.cfg.regConfig s.cfg.cfgConfig .initFailure 3 s).andThen fun _ s =>
  (memWrite s.cfg.regCtrlMeas s.cfg.cfgMeas .initFailure 4 s).andThen fun _ s =>
  ((ldcalSteps s).reportAs .initFailure 5).andThen fun _ s =>
  ((ldrawSteps s).reportAs .initFailure 6).andThen fun _ s =>
  .ok 0 (setReady s)

/-- The steps of TASK (R122): NotReady unless `ready`, then LDRAW, CONVT, CONVP, CONVH. -/
def taskSteps (s : State) : Attempt Word :=
  if s.engine.ready then
    ((ldrawSteps s).reportAs .busError 1).andThen fun _ s =>
    (convtSteps s).andThen fun _ s =>
    (convpSteps s).andThen fun _ s =>
    (convhSteps s).andThen fun _ s =>
    .ok 0 s
  else .raised .notReady 0 s

/-- INIT (R120). -/
def execInit (s : State) : Host.Outcome State Fault Refusal := .next (conclude (initSteps s))

/-- TASK (R122). -/
def execTask (s : State) : Host.Outcome State Fault Refusal := .next (conclude (taskSteps s))

/-- GETT (R124): `return (OK, out_T)`. -/
def execGett (s : State) : Host.Outcome State Fault Refusal := .next (respond .ok s.engine.outT s)

/-- GETP (R125): `return (OK, out_P)`. -/
def execGetp (s : State) : Host.Outcome State Fault Refusal := .next (respond .ok s.engine.outP s)

/-- GETH (R126): `return (OK, out_H)`. -/
def execGeth (s : State) : Host.Outcome State Fault Refusal := .next (respond .ok s.engine.outH s)

end Sys2Proof.Machine
end

