-- ==== Sys2Proof/Machine/Dispatch.lean ====
section
/-! DEFINITION. One arm per operation (R61), each a direct call of its meaning. -/

namespace Sys2Proof.Machine

def exec (i : Instr) (s : State) : Host.Outcome State Fault Refusal :=
  match i with
  | .convt => Sys2Proof.Machine.execConvt s
  | .convp => Sys2Proof.Machine.execConvp s
  | .convh => Sys2Proof.Machine.execConvh s
  | .ldcal => Sys2Proof.Machine.execLdcal s
  | .ldraw => Sys2Proof.Machine.execLdraw s
  | .init => Sys2Proof.Machine.execInit s
  | .task => Sys2Proof.Machine.execTask s
  | .gett => Sys2Proof.Machine.execGett s
  | .getp => Sys2Proof.Machine.execGetp s
  | .geth => Sys2Proof.Machine.execGeth s
  | .edge m => Sys2Proof.Machine.execEdge m s
  | .tick l => Sys2Proof.Machine.execTick l s
  | .isact l => Sys2Proof.Machine.execIsact l s

end Sys2Proof.Machine
end

