-- ==== Sys2Proof/Machine/Step.lean ====
section
/-! DEFINITION. One step: take the next stimulus and run it as one atomic operation (R48, R50, R60). There is no program
counter and no fetch (R20, R51): the place a step takes its instruction from is the head of `env.inputs`. -/

namespace Sys2Proof.Machine

/-- A step. With no stimulus queued nothing happens (R22, R175; log entry 9). A reserved word changes no state and
is answered ILLEGAL (R63, R156; log entry 7). -/
def step (s : State) : Host.Outcome State Fault Refusal :=
  match nextInput s with
  | none => .next s
  | some (.reset, s') => .next (applyReset s')
  | some (.word w, s') =>
    match decodeWord w with
    | .ok i    => exec i s'
    | .error _ => .next (answerIllegal s')

/-- The state with the event word of w as the next stimulus (log entry 10). -/
def State.withFetchWord (s : State) (nbits w : Nat) : State := queueWord (tableByte nbits w) s

end Sys2Proof.Machine
end

