-- ==== Sys2Proof/Certificates/Slice0/Reference.lean ====
section
/-! DEFINITION. The second form the statements compare the machine with: the manufacturer's C text as R80, R91 and R100
quote it, on machine words (two's-complement bit vectors, where every operation wraps by itself), and the byte
maps of R66 to R68 as concatenations of bits. Nothing of the machine's own arithmetic is used here. -/

namespace Sys2Proof.Reference

open Sys2Proof.Machine

/-- A u16 coefficient as a machine word of width w (R9: zero extension). -/
def uext {n : Nat} (w : Nat) (x : BitVec n) : BitVec w := x.setWidth w

/-- A signed coefficient as a machine word of width w (R9: sign extension). -/
def iext {n : Nat} (w : Nat) (x : BitVec n) : BitVec w := x.signExtend w

/-- `t_fine` (R80): `(((adc_T >> 3) - (dig_T1 << 1)) * dig_T2) >> 11` plus
`(((d4 * d4) >> 12) * dig_T3) >> 14` with `d4 = (adc_T >> 4) - dig_T1`. -/
def tFine (adcT : Word) (c : Calibration) : Word :=
  let t1 := uext 32 c.digT1
  let t2 := iext 32 c.digT2
  let t3 := iext 32 c.digT3
  let d4 := adcT.sshiftRight 4 - t1
  ((adcT.sshiftRight 3 - (t1 <<< 1)) * t2).sshiftRight 11 + (((d4 * d4).sshiftRight 12) * t3).sshiftRight 14

/-- `T = (t_fine * 5 + 128) >> 8` (R80). -/
def temperature (tf : Word) : Word := (tf * 5#32 + 128#32).sshiftRight 8

/-- The denominator term of R91: `((1 << 47) + var1) * dig_P1 >> 33`. -/
def pressureDen (tf : Word) (c : Calibration) : BitVec 64 :=
  let v1 := iext 64 tf - 128000#64
  let v1b := ((v1 * v1 * iext 64 c.digP3).sshiftRight 8) + ((v1 * iext 64 c.digP2) <<< 12)
  (((1#64 <<< 47) + v1b) * uext 64 c.digP1).sshiftRight 33

/-- The pressure result of R91. -/
def pressure (adcP tf : Word) (c : Calibration) : Word :=
  let v1 := iext 64 tf - 128000#64
  let v2 := v1 * v1 * iext 64 c.digP6
  let v2 := v2 + ((v1 * iext 64 c.digP5) <<< 17)
  let v2 := v2 + (iext 64 c.digP4 <<< 35)
  let den := pressureDen tf c
  if den = 0 then 0 else
  let p := 1048576#64 - iext 64 adcP
  let p := (((p <<< 31) - v2) * 3125#64).sdiv den
  let w1 := (iext 64 c.digP9 * (p.sshiftRight 13) * (p.sshiftRight 13)).sshiftRight 25
  let w2 := (iext 64 c.digP8 * p).sshiftRight 19
  let p := ((p + w1 + w2).sshiftRight 8) + (iext 64 c.digP7 <<< 4)
  p.setWidth 32

/-- The humidity intermediate of R100 before the clamp. -/
def humidityRaw (adcH tf : Word) (c : Calibration) : Word :=
  let h1 := uext 32 c.digH1
  let h2 := iext 32 c.digH2
  let h3 := uext 32 c.digH3
  let h4 := iext 32 c.digH4
  let h5 := iext 32 c.digH5
  let h6 := iext 32 c.digH6
  let x := tf - 76800#32
  let v := ((((adcH <<< 14) - (h4 <<< 20) - (h5 * x)) + 16384#32).sshiftRight 15) *
    (((((((x * h6).sshiftRight 10) * (((x * h3).sshiftRight 11) + 32768#32)).sshiftRight 10) + 2097152#32) * h2
      + 8192#32).sshiftRight 14)
  v - (((((v.sshiftRight 15) * (v.sshiftRight 15)).sshiftRight 7) * h1).sshiftRight 4)

/-- The humidity result of R100: clamped below at 0 and above at 419430400 (signed comparisons, R101), then
shifted right by 12. -/
def humidity (adcH tf : Word) (c : Calibration) : Word :=
  let x := humidityRaw adcH tf c
  let x := if x.slt 0 then 0 else x
  let x := if (419430400#32).slt x then 419430400#32 else x
  x.sshiftRight 12

/-- Byte k of a burst. -/
def byte (bs : List Byte) (k : Nat) : Byte := bs.getD k 0

/-- A little-endian 16-bit word at byte k (R66): the byte at k + 1 is the high one. -/
def word16 (bs : List Byte) (k : Nat) : Half := byte bs (k + 1) ++ byte bs k

/-- A 12-bit pattern in its 16-bit register (R67). -/
def nibbled (signed : Bool) (p : BitVec 12) : Half := if signed then p.signExtend 16 else p.setWidth 16

/-- The calibration of blocks A and B (R66, R67). -/
def calibration (signed : Bool) (a e : List Byte) : Calibration where
  digT1 := word16 a 0
  digT2 := word16 a 2
  digT3 := word16 a 4
  digP1 := word16 a 6
  digP2 := word16 a 8
  digP3 := word16 a 10
  digP4 := word16 a 12
  digP5 := word16 a 14
  digP6 := word16 a 16
  digP7 := word16 a 18
  digP8 := word16 a 20
  digP9 := word16 a 22
  digH1 := byte a 25
  digH2 := word16 e 0
  digH3 := byte e 2
  digH4 := nibbled signed (byte e 3 ++ (byte e 4).extractLsb' 0 4)
  digH5 := nibbled signed (byte e 5 ++ (byte e 4).extractLsb' 4 4)
  digH6 := byte e 6

/-- The raw sample of a burst (R68): `(MSB << 12) | (LSB << 4) | ((XLSB >> 4) & 0xF)` and `(MSB << 8) | LSB`, in
32-bit containers. -/
def raw (d : List Byte) : RawSample where
  adcP := ((byte d 0).setWidth 32 <<< 12) ||| ((byte d 1).setWidth 32 <<< 4) ||| (((byte d 2).setWidth 32 >>> 4) &&& 0xF#32)
  adcT := ((byte d 3).setWidth 32 <<< 12) ||| ((byte d 4).setWidth 32 <<< 4) ||| (((byte d 5).setWidth 32 >>> 4) &&& 0xF#32)
  adcH := ((byte d 6).setWidth 32 <<< 8) ||| (byte d 7).setWidth 32

end Sys2Proof.Reference
end

