-- ==== Sys2Proof/Safety.lean ====
section
/-! DEFINITION. The terms claims are stated in: which bus answer a transaction will get, what a run of operations does,
which pieces of state an operation may write (the table of R23), which status it may answer (the table of R150),
and the invariants the spec's prose promises of every state a run can reach. -/

namespace Sys2Proof

/-- Whether an operation is an EDGE that names lane l. -/
def Instr.isEdgeOf (l : Lane) : Instr → Bool
  | .edge m => m.mem l
  | _       => false

/-- Whether an operation is TICK l. -/
def Instr.isTickOf (l : Lane) : Instr → Bool
  | .tick k => k = l
  | _       => false

namespace Machine

/-! ### The bus ahead -/

/-- The answer the k-th bus transaction from here will get (k = 0 is the next): queued, or a free value (R43). -/
def answerAt (s : State) (k : Nat) : BusAnswer :=
  s.env.busIn.getD k (Config.busOracle (s.env.busCount + k))

/-- An answer that is a whole result of a read of n bytes (R41: exactly `count` bytes). -/
def Delivers (a : BusAnswer) (n : Nat) (bs : List Byte) : Prop := a = .bytes bs ∧ bs.length = n

/-- An answer that is no whole result of a read of n bytes: the read fails (R41, R43; log entry 5). -/
def FailsRead (a : BusAnswer) (n : Nat) : Prop := ∀ bs, ¬ Delivers a n bs

/-- The two reads of LDCAL, in order (R41, R110). -/
def ldcalTraffic (c : Config) : List BusTransaction :=
  [.readRegisters c.devAddr c.regCalA 26, .readRegisters c.devAddr c.regCalB 7]

/-- The one read of LDRAW (R41, R112). -/
def ldrawTraffic (c : Config) : List BusTransaction := [.readRegisters c.devAddr c.regData 8]

/-- The seven transactions of an INIT that completes, in order (R41, R120). -/
def initTraffic (c : Config) : List BusTransaction :=
  [.ping c.devAddr, .writeRegister c.devAddr c.regCtrlHum c.cfgHum,
    .writeRegister c.devAddr c.regConfig c.cfgConfig, .writeRegister c.devAddr c.regCtrlMeas c.cfgMeas] ++
  ldcalTraffic c ++ ldrawTraffic c

/-- The state after the transactions `ts`, first one first, and nothing else. -/
def State.afterBus (s : State) (ts : List BusTransaction) : State :=
  { s with
    env := { s.env with busIn := s.env.busIn.drop ts.length, busCount := s.env.busCount + ts.length }
    out := { s.out with bus := ts.reverse ++ s.out.bus } }

/-- The state after MAIN has been answered `(st, v)`, and nothing else (R64). -/
def State.answered (s : State) (st : Status) (v : Word) : State :=
  { s with out := { s.out with responses := { status := st, value := v } :: s.out.responses } }

/-- The state after the exception `st` with info `v` has been reported, to MAIN and to DIAG, and nothing else (R150,
R166). -/
def State.failed (s : State) (st : Status) (v : Word) : State :=
  { s with out := { s.out with
      responses := { status := st, value := v } :: s.out.responses
      diag := { status := st, info := v } :: s.out.diag } }

/-- The state in which lane l holds y and `ie` is 1, and nothing else differs. -/
def State.afterHandler (s : State) (l : Lane) (y : LaneState) : State :=
  match l with
  | .l0 => { s with lanes := { s.lanes with lane0 := y }, ie := true }
  | .l1 => { s with lanes := { s.lanes with lane1 := y }, ie := true }

/-! ### Runs -/

/-- Run operations one after the other, stopping at the first that does not answer a next state (R183). -/
def runAll : List Instr → State → Host.Outcome State Fault Refusal
  | [], s => .next s
  | i :: is, s =>
    match exec i s with
    | .next s'   => runAll is s'
    | .fault r   => .fault r
    | .refused r => .refused r

/-- Every event word still queued is a legal one: a trace that names no reserved word (R63). -/
def legalInputs (s : State) : Bool :=
  s.env.inputs.all fun i =>
    match i with
    | .word w => EventWord.wf w
    | .reset  => true

/-! ### What an operation may touch (R23) -/

/-- The pieces of architectural state (R10). -/
inductive Piece where
  | reg (r : Reg)
  | ready
  | tfineValid
  | laneState (l : Lane)
  | laneArmed (l : Lane)
  | laneCounter (l : Lane)
  | ie
deriving DecidableEq, Repr

/-- The number a piece of state holds. -/
def State.piece (s : State) : Piece → Int
  | .reg r         => s.engine.x r
  | .ready         => s.engine.ready.toNat
  | .tfineValid    => s.engine.tfineValid.toNat
  | .laneState l   => (s.lane l).state.code
  | .laneArmed l   => (s.lane l).armed.toNat
  | .laneCounter l => (s.lane l).counter.toNat
  | .ie            => s.ie.toNat

/-- x[0] .. x[17] (R11, R12). -/
def Reg.isCalibration (r : Reg) : Bool := r.number ≤ 17

/-- x[18] .. x[20] (R11, R13). -/
def Reg.isRaw (r : Reg) : Bool := 18 ≤ r.number && r.number ≤ 20

/-- The cells marked `w` in the table of R23, with `ie` for the two handlers (R18). -/
def mayWrite : Instr → Piece → Bool
  | .convt, .reg r           => r = .tFine || r = .outT
  | .convt, .tfineValid      => true
  | .convp, .reg r           => r = .outP
  | .convh, .reg r           => r = .outH
  | .ldcal, .reg r           => r.isCalibration
  | .ldcal, .tfineValid      => true
  | .ldraw, .reg r           => r.isRaw
  | .ldraw, .tfineValid      => true
  | .init, .reg r            => r.isCalibration || r.isRaw
  | .init, .ready            => true
  | .init, .tfineValid       => true
  | .task, .reg r            => !r.isCalibration
  | .task, .tfineValid       => true
  | .edge m, .laneArmed l    => m.mem l
  | .edge m, .laneCounter l  => m.mem l
  | .edge _, .ie             => true
  | .tick k, .laneState l    => k = l
  | .tick k, .laneArmed l    => k = l
  | .tick k, .laneCounter l  => k = l
  | .tick _, .ie             => true
  | _, _                     => false

/-- The statuses of R150 an operation may answer. -/
def mayAnswer : Instr → Status → Bool
  | .convp, .staleTfine  => true
  | .convh, .staleTfine  => true
  | .ldcal, .busError    => true
  | .ldraw, .busError    => true
  | .task, .busError     => true
  | .task, .notReady     => true
  | .init, .initFailure  => true
  | .edge _, _           => false
  | .tick _, _           => false
  | _, .ok               => true
  | _, _                 => false

/-! ### Invariants -/

/-- The ranges of R11 to R13, R18 and R103: the counts fit their 20 and 16 bits, the paired-nibble coefficients
their 12, the humidity output lies in 0 .. 102400, and interrupts are enabled between steps. -/
structure RangeInv (s : State) : Prop where
  adcP : s.engine.raw.adcP.toNat < 1048576
  adcT : s.engine.raw.adcT.toNat < 1048576
  adcH : s.engine.raw.adcH.toNat < 65536
  digH4 : if s.cfg.h45SignExtend then -2048 ≤ s.engine.cal.digH4.toInt ∧ s.engine.cal.digH4.toInt ≤ 2047
    else 0 ≤ s.engine.cal.digH4.toInt ∧ s.engine.cal.digH4.toInt ≤ 4095
  digH5 : if s.cfg.h45SignExtend then -2048 ≤ s.engine.cal.digH5.toInt ∧ s.engine.cal.digH5.toInt ≤ 2047
    else 0 ≤ s.engine.cal.digH5.toInt ∧ s.engine.cal.digH5.toInt ≤ 4095
  outH : s.engine.outH.toNat ≤ 102400
  ie : s.ie = true

/-- The same-cycle coupling of R14 and R16: while `tfine_valid` is 1, `t_fine` and `out_T` are what CONVT computes
from the raw sample and the calibration now in the registers. -/
def CycleInv (s : State) : Prop :=
  s.engine.tfineValid = true →
    s.engine.tFine = toWord (temperatureOf s.engine).2 ∧
    s.engine.outT = toWord (sub32 (temperatureOf s.engine).1 s.cfg.tempOffset.toInt)

/-- R140 (a) and (b) for one lane. -/
def LaneInv (c : Config) (x : LaneState) : Prop :=
  (x.armed = true → x.counter.toNat < (threshold c x).toNat) ∧
  x.counter.toNat ≤ max c.minLaneEmptyTicks.toNat c.minLaneFullTicks.toNat

/-- R140 (a) and (b) for both lanes, of a machine whose thresholds lie in the range of R6. -/
def DebounceInv (s : State) : Prop :=
  s.cfg.wf = true ∧ ∀ l, LaneInv s.cfg (s.lane l)

/-- No step of `compT` leaves the s32 range: the predicate of the conservative alternative of R83. -/
def CompTNoWrap (adcT t1 t2 t3 : Int) : Prop :=
  let inS32 := fun v : Int => -2147483648 ≤ v ∧ v ≤ 2147483647
  let d3 := adcT / 8 - 2 * t1
  let d4 := adcT / 16 - t1
  let var1 := d3 * t2 / 2048
  let var2 := d4 * d4 / 4096 * t3 / 16384
  inS32 (2 * t1) ∧ inS32 d3 ∧ inS32 (d3 * t2) ∧ inS32 d4 ∧ inS32 (d4 * d4) ∧ inS32 (d4 * d4 / 4096 * t3) ∧
    inS32 (var1 + var2) ∧ inS32 ((var1 + var2) * 5) ∧ inS32 ((var1 + var2) * 5 + 128)

end Machine

end Sys2Proof
end

