-- ==== Sys2Proof/Certificates/Slice0/Obligations.lean ====
section
/-! DEFINITION. The statements for the provers. Each docstring names the rule of spec/ it formalises. `answered`,
`failed` and `afterBus` (Safety.lean) say what a state becomes when MAIN is answered, an exception is reported
and bus transactions are made; every next state is written whole, so each is its own frame. -/

open Sys2Proof Sys2Proof.Machine

/-! ### Encoding -/

/-- R61, R62: a word decodes to an operation exactly when it is that operation's word, so decoding inverts encoding
and no two words decode alike. -/
def Obligations.DecodeInvertsEncode : Prop :=
  ∀ (w : Byte) (i : Instr), decodeWord w = .ok i ↔ encode i = w

/-- R63: the reserved words are exactly those of its four conditions, there are 238 of them, and each changes no
state and is answered ILLEGAL. `EventWord.op`, `zero`, `arg` are the fields of R60. That no diagnostic event is
sent is log entry 7's reading of R166. -/
def Obligations.ReservedWordsAnsweredIllegal : Prop :=
  (∀ w : Byte, (∃ e, decodeWord w = .error e) ↔
    (EventWord.op w = 0x0 ∨ EventWord.op w = 0xE ∨ EventWord.op w = 0xF) ∨
    EventWord.zero w ≠ 0 ∨
    (1 ≤ EventWord.op w ∧ EventWord.op w ≤ 0xA ∧ EventWord.arg w ≠ 0) ∨
    ((EventWord.op w = 0xC ∨ EventWord.op w = 0xD) ∧ 2 ≤ EventWord.arg w)) ∧
  ((List.range 256).countP fun n => !EventWord.wf (BitVec.ofNat 8 n)) = 238 ∧
  (∀ (s : State) (w : Byte) (rest : List Input) (e : DecodeError),
    s.env.inputs = .word w :: rest → decodeWord w = .error e →
    step s = .next (State.answered { s with env := { s.env with inputs := rest } } .illegal 0))

/-- R61, R62: words written out from the spec's encodings decode to the operations they stand for. -/
def Obligations.SampleWordsDecode : Prop :=
  decodeWord 0b00010000#8 = .ok .convt ∧ decodeWord 0b00100000#8 = .ok .convp ∧
  decodeWord 0b00110000#8 = .ok .convh ∧ decodeWord 0b01000000#8 = .ok .ldcal ∧
  decodeWord 0b01110000#8 = .ok .task ∧ decodeWord 0b10010000#8 = .ok .getp ∧
  decodeWord 0b10110010#8 = .ok (.edge { lane0 := false, lane1 := true }) ∧
  decodeWord 0b11000001#8 = .ok (.tick .l1) ∧ decodeWord 0b11010000#8 = .ok (.isact .l0)

/-! ### The step -/

/-- R60, R48: when the next stimulus is an event word that decodes to i, a step is i run on the state with that
stimulus taken off the queue, and nothing else is added around it; in particular for the word `withFetchWord`
places. -/
def Obligations.StepRunsDecodedOperation : Prop :=
  (∀ (s : State) (w : Byte) (rest : List Input) (i : Instr),
    s.env.inputs = .word w :: rest → decodeWord w = .ok i →
    step s = exec i { s with env := { s.env with inputs := rest } }) ∧
  (∀ (s : State) (i : Instr), step (s.withFetchWord 8 (encode i).toNat) = exec i s)

/-- R175: the reset input puts every piece of state at the value of R22 at once and touches nothing on the bus; and
with no stimulus nothing happens. That the queues and the record of what was sent stay is log entry 8's choice. -/
def Obligations.ResetInputAndIdle : Prop :=
  (∀ (s : State) (rest : List Input), s.env.inputs = .reset :: rest →
    step s = .next { State.resetWith s.cfg with env := { s.env with inputs := rest }, out := s.out }) ∧
  (∀ s : State, s.env.inputs = [] → step s = .next s)

/-- R22: the reset state, of the device and for every value of the parameters. Every one of the 25 data registers is
0, both flags are 0, both lanes are (EMPTY, 0, 0) and ie is 1; and nothing executes until an event arrives. -/
def Obligations.ResetStateValues : Prop :=
  ∀ s : State, (s = State.reset ∨ ∃ c, s = State.resetWith c) →
    (∀ r, s.engine.x r = 0) ∧
    s.engine.ready = false ∧ s.engine.tfineValid = false ∧
    (∀ l, s.lane l = { state := .empty, armed := false, counter := 0 }) ∧
    s.ie = true ∧
    step s = .next s

/-- R176: what holds right after reset, for every value of the parameters. -/
def Obligations.BehaviourRightAfterReset : Prop :=
  ∀ c : Config,
    let r := State.resetWith c
    let t := { r with engine := { r.engine with outT := 0 - c.tempOffset, tfineValid := true } }
    let t := t.answered .ok (0 - c.tempOffset)
    (∀ l, exec (.isact l) r = .next (r.answered .ok 0)) ∧
    exec .gett r = .next (r.answered .ok 0) ∧
    exec .getp r = .next (r.answered .ok 0) ∧
    exec .geth r = .next (r.answered .ok 0) ∧
    exec .task r = .next (r.failed .notReady 0) ∧
    exec .convp r = .next (r.failed .staleTfine 0) ∧
    exec .convh r = .next (r.failed .staleTfine 0) ∧
    exec .convt r = .next t ∧
    exec .convp t = .next (t.answered .ok 0) ∧
    exec .convh t = .next (t.answered .ok 0) ∧
    (∀ l, exec (.tick l) r = .next r) ∧
    (∀ l u, exec (.edge (LaneSet.single l)) r = .next u →
      u.lane l = { state := .empty, armed := true, counter := 0 })

/-- R157, R183, R164: no operation ever stops the machine, and no event does: every operation in every state, and
every step, answers a next state. -/
def Obligations.EveryStepAnswersNextState : Prop :=
  (∀ (i : Instr) (s : State), ∃ t, exec i s = .next t) ∧ ∀ s : State, ∃ t, step s = .next t

/-- R24, R60: a step takes at most one stimulus off the queue, never writes the parameters, and consumes as many bus
answers as it makes transactions. -/
def Obligations.StepConsumesOneStimulus : Prop :=
  ∀ s t : State, step s = .next t →
    t.cfg = s.cfg ∧ t.env.inputs = s.env.inputs.tail ∧
    ∃ ts : List BusTransaction, t.out.bus = ts ++ s.out.bus ∧
      t.env.busIn = s.env.busIn.drop ts.length ∧ t.env.busCount = s.env.busCount + ts.length

/-! ### The conversions -/

/-- R80, R81: CONVT, for every state. The values are those of the manufacturer's expression on 32-bit machine words
(`Reference.tFine`, `Reference.temperature`), the trim is subtracted from the output only, `tfine_valid` is set,
the response is (OK, out_T), and nothing else changes. -/
def Obligations.ConvtComputesTemperature : Prop :=
  encode .convt = 0x10 ∧ ∀ s : State,
    let tf := Reference.tFine s.engine.raw.adcT s.engine.cal
    let t := Reference.temperature tf - s.cfg.tempOffset
    exec .convt s = .next (State.answered
      { s with engine := { s.engine with tFine := tf, outT := t, tfineValid := true } } .ok t)

/-- R91, R93, R94, R95: CONVP with `tfine_valid` = 1. The value is that of the manufacturer's C text on 64-bit machine
words with its zero guard (`Reference.pressure`), written to `out_P` and returned, and nothing else changes. -/
def Obligations.ConvpComputesPressure : Prop :=
  encode .convp = 0x20 ∧ ∀ s : State, s.engine.tfineValid = true →
    let p := Reference.pressure s.engine.raw.adcP s.engine.tFine s.engine.cal
    exec .convp s = .next (State.answered { s with engine := { s.engine with outP := p } } .ok p)

/-- R100, R101, R102: CONVH with `tfine_valid` = 1. The value is that of the manufacturer's C text on 32-bit machine
words with its clamp (`Reference.humidity`), written to `out_H` and returned, and nothing else changes. -/
def Obligations.ConvhComputesHumidity : Prop :=
  encode .convh = 0x30 ∧ ∀ s : State, s.engine.tfineValid = true →
    let h := Reference.humidity s.engine.raw.adcH s.engine.tFine s.engine.cal
    exec .convh s = .next (State.answered { s with engine := { s.engine with outH := h } } .ok h)

/-- R154: CONVP and CONVH raise StaleFineTemperature exactly when `tfine_valid` = 0, and then write nothing. -/
def Obligations.StaleFineTemperatureReported : Prop :=
  ∀ (s : State) (i : Instr), i = .convp ∨ i = .convh →
    ((s.engine.tfineValid = false → exec i s = .next (s.failed .staleTfine 0)) ∧
     (∀ t, exec i s = .next t → t.out.responses.head? = some { status := .staleTfine, value := 0 } →
      s.engine.tfineValid = false))

/-- R82: CONVT is a function of the temperature count, the three temperature coefficients and the trim: wherever these
agree it writes the same values; and running it twice in a row writes the same values twice, the second run only
answering again. -/
def Obligations.ConvtDeterministic : Prop :=
  (∀ s s' t t' : State, exec .convt s = .next t → exec .convt s' = .next t' →
    s.engine.raw.adcT = s'.engine.raw.adcT → s.engine.cal.digT1 = s'.engine.cal.digT1 →
    s.engine.cal.digT2 = s'.engine.cal.digT2 → s.engine.cal.digT3 = s'.engine.cal.digT3 →
    s.cfg.tempOffset = s'.cfg.tempOffset →
    t.engine.tFine = t'.engine.tFine ∧ t.engine.outT = t'.engine.outT ∧
      t.out.responses.head? = t'.out.responses.head?) ∧
  (∀ s t : State, exec .convt s = .next t → exec .convt t = .next (t.answered .ok t.engine.outT))

/-- R83: for a 20-bit count and a u16 `dig_T1` the two differences do not wrap; the square wraps exactly from
46341 on; and in the sufficient box no step of `compT` wraps, its result is the exact one, and
|t_fine| < 1.2 * 10^6. -/
def Obligations.TemperatureNoWrapBox : Prop :=
  (∀ adcT t1 : Int, 0 ≤ adcT → adcT ≤ 1048575 → 0 ≤ t1 → t1 ≤ 65535 →
    sub32 (asr adcT 3) (shl32 t1 1) = adcT / 8 - 2 * t1 ∧ sub32 (asr adcT 4) t1 = adcT / 16 - t1) ∧
  (∀ d4 : Int, -65535 ≤ d4 → d4 ≤ 65535 → (mul32 d4 d4 = d4 * d4 ↔ -46341 < d4 ∧ d4 < 46341)) ∧
  (∀ adcT t1 t2 t3 : Int, 0 ≤ adcT → adcT ≤ 1048575 → 27000 ≤ t1 → t1 ≤ 30000 →
    -27000 ≤ t2 → t2 ≤ 27000 → -5000 ≤ t3 → t3 ≤ 5000 →
    let tf := (adcT / 8 - 2 * t1) * t2 / 2048 + (adcT / 16 - t1) * (adcT / 16 - t1) / 4096 * t3 / 16384
    CompTNoWrap adcT t1 t2 t3 ∧ compT adcT t1 t2 t3 = ((tf * 5 + 128) / 256, tf) ∧ -1200000 < tf ∧ tf < 1200000)

/-- R84 (f): the low 3 bits of `adc_T` never influence the result, and bit 3 influences only the first term. -/
def Obligations.TemperatureIgnoresLowBits : Prop :=
  (∀ q k t1 t2 t3 : Int, 0 ≤ k → k < 8 → compT (8 * q + k) t1 t2 t3 = compT (8 * q) t1 t2 t3) ∧
  (∀ q k t1 t3 : Int, 0 ≤ k → k < 16 → compTVar2 (16 * q + k) t1 t3 = compTVar2 (16 * q) t1 t3)

/-- R93: `dig_P1` = 0 gives 0 for every other input; where the sum and the product do not wrap the denominator is 0
exactly when 0 <= (2^47 + v1b) * dig_P1 < 2^33; and CONVP then answers (OK, 0) with `out_P` = 0, no exception
and no diagnostic event (R153). -/
def Obligations.PressureZeroGuard : Prop :=
  (∀ adcP tf p2 p3 p4 p5 p6 p7 p8 p9 : Int, compP adcP tf 0 p2 p3 p4 p5 p6 p7 p8 p9 = 0) ∧
  (∀ tf p1 p2 p3 q : Int, q = 140737488355328 + compPV1b tf p2 p3 →
    -9223372036854775808 ≤ q → q ≤ 9223372036854775807 →
    -9223372036854775808 ≤ q * p1 → q * p1 ≤ 9223372036854775807 →
    (compPDen tf p1 p2 p3 = 0 ↔ 0 ≤ q * p1 ∧ q * p1 < 8589934592)) ∧
  (∀ s : State, s.engine.tfineValid = true →
    s.engine.cal.digP1 = 0 ∨ Reference.pressureDen s.engine.tFine s.engine.cal = 0 →
    exec .convp s = .next (State.answered { s with engine := { s.engine with outP := 0 } } .ok 0))

/-- R96 (e): for |t_fine - 128000| < 2^20 the sums `v2` and `v1b` do not wrap for any s16 coefficients: they are the
exact integers. -/
def Obligations.PressureTermsDoNotWrap : Prop :=
  ∀ tf p2 p3 p4 p5 p6 : Int, -1048576 < tf - 128000 → tf - 128000 < 1048576 →
    -32768 ≤ p2 → p2 ≤ 32767 → -32768 ≤ p3 → p3 ≤ 32767 → -32768 ≤ p4 → p4 ≤ 32767 →
    -32768 ≤ p5 → p5 ≤ 32767 → -32768 ≤ p6 → p6 ≤ 32767 →
    let v1 := tf - 128000
    compPV2 tf p4 p5 p6 = v1 * v1 * p6 + v1 * p5 * 131072 + p4 * 34359738368 ∧
    compPV1b tf p2 p3 = v1 * v1 * p3 / 256 + v1 * p2 * 4096

/-- R103: for every input whatever, 0 <= compH <= 0x19000 = 102400, and so is every `out_H` CONVH or TASK writes. -/
def Obligations.HumidityOutputRange : Prop :=
  (∀ adcH tf h1 h2 h3 h4 h5 h6 : Int,
    0 ≤ compH adcH tf h1 h2 h3 h4 h5 h6 ∧ compH adcH tf h1 h2 h3 h4 h5 h6 ≤ 0x19000) ∧
  (∀ (i : Instr) (s t : State), exec i s = .next t → t.engine.outH ≠ s.engine.outH →
    t.engine.outH.toNat ≤ 102400)

/-- R81, R96 (f), R104 (g): CONVP and CONVH do not see the trim or `out_T`: changing both before the operation
changes nothing but themselves after it. -/
def Obligations.TrimReachesTemperatureOnly : Prop :=
  ∀ (s : State) (o t : Word) (i : Instr), i = .convp ∨ i = .convh →
    let trimmed := fun x : State =>
      { x with cfg := { x.cfg with tempOffset := o }, engine := { x.engine with outT := t } }
    ∃ a, exec i s = .next a ∧ exec i (trimmed s) = .next (trimmed a)

/-! ### Loads -/

/-- R110, R66, R67: LDCAL when both reads are answered whole: block A then block B are read, all eighteen registers
take the values of the byte maps (`Reference.calibration`), `tfine_valid` is cleared, the response is (OK, 0),
and nothing else changes. -/
def Obligations.LdcalLoadsCalibration : Prop :=
  encode .ldcal = 0x40 ∧ ∀ (s : State) (a b : List Byte),
    Delivers (answerAt s 0) 26 a → Delivers (answerAt s 1) 7 b →
    exec .ldcal s = .next (State.answered
      { s.afterBus (ldcalTraffic s.cfg) with
        engine := { s.engine with
          cal := Reference.calibration s.cfg.h45SignExtend a b, tfineValid := false } } .ok 0)

/-- R110, R113, R158: LDCAL when a read fails: BusError with info 1 for block A, after which block B is not read,
and info 2 for block B; no register or flag changes. -/
def Obligations.LdcalFailureWritesNothing : Prop :=
  ∀ s : State,
    (FailsRead (answerAt s 0) 26 →
      exec .ldcal s = .next ((s.afterBus ((ldcalTraffic s.cfg).take 1)).failed .busError 1)) ∧
    (∀ a, Delivers (answerAt s 0) 26 a → FailsRead (answerAt s 1) 7 →
      exec .ldcal s = .next ((s.afterBus (ldcalTraffic s.cfg)).failed .busError 2))

/-- R12, R111: an operation that changes any calibration register is LDCAL or INIT, both blocks were delivered whole
to it, and all eighteen registers then hold the new values. -/
def Obligations.CalibrationWrittenAllOrNone : Prop :=
  ∀ (i : Instr) (s t : State), exec i s = .next t → t.engine.cal ≠ s.engine.cal →
    ∃ (k : Nat) (a b : List Byte), (i = .ldcal ∧ k = 0 ∨ i = .init ∧ k = 4) ∧
      Delivers (answerAt s k) 26 a ∧ Delivers (answerAt s (k + 1)) 7 b ∧
      t.engine.cal = Reference.calibration s.cfg.h45SignExtend a b

/-- R112, R68: LDRAW when the burst is answered whole: the three counts take the values of the big-endian fields
(`Reference.raw`), `tfine_valid` is cleared, the response is (OK, 0), and nothing else changes. -/
def Obligations.LdrawLoadsSample : Prop :=
  encode .ldraw = 0x50 ∧ ∀ (s : State) (d : List Byte), Delivers (answerAt s 0) 8 d →
    exec .ldraw s = .next (State.answered
      { s.afterBus (ldrawTraffic s.cfg) with
        engine := { s.engine with raw := Reference.raw d, tfineValid := false } } .ok 0)

/-- R112, R113: LDRAW when the read fails: BusError(1), and every register and flag is as before. -/
def Obligations.LdrawFailureWritesNothing : Prop :=
  ∀ s : State, FailsRead (answerAt s 0) 8 →
    exec .ldraw s = .next ((s.afterBus (ldrawTraffic s.cfg)).failed .busError 1)

/-! ### Sequencing -/

/-- R120: INIT when every transaction succeeds: the seven transactions in order, calibration and raw sample loaded,
`tfine_valid` 0, `ready` 1, response (OK, 0); `t_fine` and the outputs keep their values, and so does everything
else. -/
def Obligations.InitCompletes : Prop :=
  encode .init = 0x60 ∧ ∀ (s : State) (a b d : List Byte),
    (∀ j, j < 4 → answerAt s j = .ack) →
    Delivers (answerAt s 4) 26 a → Delivers (answerAt s 5) 7 b → Delivers (answerAt s 6) 8 d →
    exec .init s = .next (State.answered
      { s.afterBus (initTraffic s.cfg) with
        engine := { s.engine with
          cal := Reference.calibration s.cfg.h45SignExtend a b
          raw := Reference.raw d
          ready := true
          tfineValid := false } } .ok 0)

/-- R120, R121, R152, R158: INIT when a step fails: InitializationFailure with the number of the first failed step,
no later transaction, `ready` 0, and exactly the effects of the steps before it (a calibration loaded at step 5
stays when step 6 fails). -/
def Obligations.InitFailureReportsFirstStep : Prop :=
  ∀ s : State,
    let made := fun n : Nat =>
      { s.afterBus ((initTraffic s.cfg).take n) with engine := { s.engine with ready := false } }
    (∀ k, k < 4 → (∀ j, j < k → answerAt s j = .ack) → answerAt s k ≠ .ack →
      exec .init s = .next ((made (k + 1)).failed .initFailure (BitVec.ofNat 32 (k + 1)))) ∧
    ((∀ j, j < 4 → answerAt s j = .ack) →
      (FailsRead (answerAt s 4) 26 → exec .init s = .next ((made 5).failed .initFailure 5)) ∧
      (∀ a, Delivers (answerAt s 4) 26 a → FailsRead (answerAt s 5) 7 →
        exec .init s = .next ((made 6).failed .initFailure 5)) ∧
      (∀ a b, Delivers (answerAt s 4) 26 a → Delivers (answerAt s 5) 7 b → FailsRead (answerAt s 6) 8 →
        exec .init s = .next (State.failed
          { made 7 with engine := { s.engine with
              cal := Reference.calibration s.cfg.h45SignExtend a b
              ready := false
              tfineValid := false } } .initFailure 6)))

/-- R122: TASK when the engine is ready and the burst is answered whole: one cycle, temperature before pressure and
humidity, all from the new sample; response (OK, 0), and nothing else changes. -/
def Obligations.TaskRunsOneCycle : Prop :=
  encode .task = 0x70 ∧ ∀ (s : State) (d : List Byte), s.engine.ready = true → Delivers (answerAt s 0) 8 d →
    let r := Reference.raw d
    let tf := Reference.tFine r.adcT s.engine.cal
    exec .task s = .next (State.answered
      { s.afterBus (ldrawTraffic s.cfg) with
        engine := { s.engine with
          raw := r
          tFine := tf
          outT := Reference.temperature tf - s.cfg.tempOffset
          outP := Reference.pressure r.adcP tf s.engine.cal
          outH := Reference.humidity r.adcH tf s.engine.cal
          tfineValid := true } } .ok 0)

/-- R155: TASK when `ready` = 0 raises NotReady; nothing is written and no bus transaction is made. No other
operation answers NOT_READY: only TASK checks `ready`. -/
def Obligations.TaskNotReadyDoesNothing : Prop :=
  (∀ s : State, s.engine.ready = false → exec .task s = .next (s.failed .notReady 0)) ∧
  (∀ (i : Instr) (s t : State), exec i s = .next t → t.out.responses ≠ s.out.responses →
    t.out.responses.head? = some { status := .notReady, value := 0 } → i = .task)

/-- R123: TASK when its raw read fails: BusError(1), one transaction and no retry; the outputs, `t_fine`,
`tfine_valid`, the raw registers and `ready` are exactly as before. That an answer which does not fit the read
counts as a failure of it is log entry 5's choice, on the ground of R41. -/
def Obligations.FailedCycleKeepsReadings : Prop :=
  ∀ s : State, s.engine.ready = true → FailsRead (answerAt s 0) 8 →
    exec .task s = .next ((s.afterBus (ldrawTraffic s.cfg)).failed .busError 1)

/-- R124, R125, R126: the getters return the output registers and write no state. -/
def Obligations.GettersReturnOutputs : Prop :=
  encode .gett = 0x80 ∧ encode .getp = 0x90 ∧ encode .geth = 0xA0 ∧ ∀ s : State,
    exec .gett s = .next (s.answered .ok s.engine.outT) ∧
    exec .getp s = .next (s.answered .ok s.engine.outP) ∧
    exec .geth s = .next (s.answered .ok s.engine.outH)

/-! ### The lane detector -/

/-- R136, R137: EDGE m. For each lane of m the counter is 0, the lane is armed and its timer is restarted; a lane not
in m keeps everything; `state` is never written; `ie` ends at 1; there is no response and nothing else changes. -/
def Obligations.EdgeArmsNamedLanes : Prop :=
  encode (.edge { lane0 := false, lane1 := false }) = 0xB0 ∧ encode (.edge { lane0 := true, lane1 := true }) = 0xB3 ∧
  ∀ (s : State) (m : LaneSet),
    let after := fun (inSet : Bool) (x : LaneState) =>
      if inSet then { state := x.state, armed := true, counter := 0 } else x
    exec (.edge m) s = .next { s with
      lanes := { lane0 := after m.lane0 s.lanes.lane0, lane1 := after m.lane1 s.lanes.lane1 }
      ie := true
      out := { s.out with
        restarts0 := s.out.restarts0 + m.lane0.toNat
        restarts1 := s.out.restarts1 + m.lane1.toNat } }

/-- R136: `EDGE {}` changes nothing (in a state between steps, where ie is 1), and `EDGE {0,1}` equals `EDGE {0}`
followed by `EDGE {1}` in either order. -/
def Obligations.EdgeOrderImmaterial : Prop :=
  ∀ s : State,
    (s.ie = true → exec (.edge { lane0 := false, lane1 := false }) s = .next s) ∧
    (∀ l, exec (.edge { lane0 := true, lane1 := true }) s =
      runAll [.edge (LaneSet.single l), .edge (LaneSet.single l.other)] s)

/-- R138: TICK l. A disarmed lane is left alone; an armed lane counts; if the counter reaches the threshold of the
state it is in, the state is toggled and the lane disarmed, the counter keeping the threshold. The other lane,
the engine and everything else stay; `ie` ends at 1; there is no response. -/
def Obligations.TickCountsAndCommits : Prop :=
  encode (.tick .l0) = 0xC0 ∧ encode (.tick .l1) = 0xC1 ∧
  ∀ (s : State) (l : Lane),
    let x := s.lane l
    let after := fun y : LaneState => Host.Outcome.next (φ := Fault) (ρ := Refusal) (s.afterHandler l y)
    (x.armed = false → exec (.tick l) s = after x) ∧
    (x.armed = true → x.state = .full → x.counter + 1 = s.cfg.minLaneEmptyTicks →
      exec (.tick l) s = after { state := .empty, armed := false, counter := x.counter + 1 }) ∧
    (x.armed = true → x.state = .empty → x.counter + 1 = s.cfg.minLaneFullTicks →
      exec (.tick l) s = after { state := .full, armed := false, counter := x.counter + 1 }) ∧
    (x.armed = true → x.state = .full → x.counter + 1 ≠ s.cfg.minLaneEmptyTicks →
      exec (.tick l) s = after { state := .full, armed := true, counter := x.counter + 1 }) ∧
    (x.armed = true → x.state = .empty → x.counter + 1 ≠ s.cfg.minLaneFullTicks →
      exec (.tick l) s = after { state := .empty, armed := true, counter := x.counter + 1 })

/-- R139: ISACT l answers (OK, 1) if the lane's state is FULL and (OK, 0) otherwise, writes nothing, and does not
touch `ie`. -/
def Obligations.IsactReportsCommittedState : Prop :=
  encode (.isact .l0) = 0xD0 ∧ encode (.isact .l1) = 0xD1 ∧
  ∀ (s : State) (l : Lane),
    ((s.lane l).state = .full → exec (.isact l) s = .next (s.answered .ok 1)) ∧
    ((s.lane l).state = .empty → exec (.isact l) s = .next (s.answered .ok 0))

/-- R140 (c): a lane's state changes only in a TICK of that lane that finds it armed, and that TICK disarms it. -/
def Obligations.StateChangesOnlyInArmedTick : Prop :=
  ∀ (i : Instr) (s t : State) (l : Lane), exec i s = .next t → (t.lane l).state ≠ (s.lane l).state →
    i = .tick l ∧ (s.lane l).armed = true ∧ (t.lane l).armed = false

/-- R140 (a), (b): with both thresholds in range, an armed lane's counter is below its threshold and every counter
is at most the larger threshold, and every step keeps this; so the 16-bit counter never wraps: an armed TICK
adds exactly one to it. -/
def Obligations.DebounceInvariantKept : Prop :=
  (∀ s t : State, DebounceInv s → step s = .next t → DebounceInv t) ∧
  (∀ (s t : State) (l : Lane), DebounceInv s → exec (.tick l) s = .next t → (s.lane l).armed = true →
    (t.lane l).counter.toNat = (s.lane l).counter.toNat + 1)

/-- R140: the reset state meets the debounce invariant for every configuration in range, and the device's
configuration is in range. -/
def Obligations.ResetMeetsDebounceInvariant : Prop :=
  (∀ c : Config, c.wf = true → DebounceInv (State.resetWith c)) ∧ DebounceInv State.reset

/-- R143: after an EDGE on lane l, through any operations at all among which there is no further EDGE on lane l, the
lane's state changes at the thr(l)-th TICK l and not earlier: with n of them so far, the lane is armed with
counter n while n < thr(l), and toggled, disarmed and holding thr(l) from then on. -/
def Obligations.LaneChangesAtThreshold : Prop :=
  ∀ (s : State) (m : LaneSet) (l : Lane) (ops : List Instr), s.cfg.wf = true → m.mem l = true →
    (∀ i ∈ ops, i.isEdgeOf l = false) →
    let x := s.lane l
    let thr := if x.state = .full then s.cfg.minLaneEmptyTicks else s.cfg.minLaneFullTicks
    let toggled := if x.state = .full then Occupancy.empty else Occupancy.full
    let n := ops.countP (Instr.isTickOf l)
    ∃ t, runAll (.edge m :: ops) s = .next t ∧
      t.lane l =
        if n < thr.toNat then { state := x.state, armed := true, counter := BitVec.ofNat 16 n }
        else { state := toggled, armed := false, counter := thr }

/-- R142: any trace that names only the other lane leaves a lane exactly as it was, and the two lanes' events
commute. -/
def Obligations.LanesAreIndependent : Prop :=
  (∀ (l : Lane) (ops : List Instr) (s t : State),
    (∀ i ∈ ops, i.isEdgeOf l = false ∧ i.isTickOf l = false) → runAll ops s = .next t → t.lane l = s.lane l) ∧
  (∀ (l : Lane) (i j : Instr) (s : State),
    i = .edge (LaneSet.single l) ∨ i = .tick l →
    j = .edge (LaneSet.single l.other) ∨ j = .tick l.other →
    runAll [i, j] s = runAll [j, i] s)

/-! ### Whole-machine rules -/

/-- R50: an engine operation and a handler commute: the state after both is the same whichever runs first. -/
def Obligations.EngineAndHandlersCommute : Prop :=
  ∀ (i j : Instr) (s : State), i.isEngine = true → j.context ≠ .main → runAll [i, j] s = runAll [j, i] s

/-- R10: the engine operations leave the lane state, `ie` and the timers alone; the lane operations leave the engine,
the bus and the diagnostic sink alone, and ISACT also leaves the lanes, `ie` and the timers. -/
def Obligations.BlocksShareNoState : Prop :=
  ∀ (i : Instr) (s t : State), exec i s = .next t →
    (i.isEngine = true → t.lanes = s.lanes ∧ t.ie = s.ie ∧
      t.out.restarts0 = s.out.restarts0 ∧ t.out.restarts1 = s.out.restarts1) ∧
    (i.isEngine = false → t.engine = s.engine ∧ t.env = s.env ∧ t.out.bus = s.out.bus ∧ t.out.diag = s.out.diag) ∧
    (∀ l, i = .isact l → t.lanes = s.lanes ∧ t.ie = s.ie ∧
      t.out.restarts0 = s.out.restarts0 ∧ t.out.restarts1 = s.out.restarts1)

/-- R23: an operation writes no piece of state outside the cells its row of the table marks `w` (and `ie` for the
handlers). -/
def Obligations.WritesOnlyItsPieces : Prop :=
  ∀ (i : Instr) (s t : State), exec i s = .next t → ∀ p, mayWrite i p = false → t.piece p = s.piece p

/-- R64, R166: an operation issued by MAIN returns exactly one response, and sends one diagnostic event carrying its
status and info exactly when the status is not OK; EDGE and TICK return no response and send no event. -/
def Obligations.OneResponsePerMainOperation : Prop :=
  ∀ (i : Instr) (s t : State), exec i s = .next t →
    (i.context = .main → ∃ r : Response, t.out.responses = r :: s.out.responses ∧
      t.out.diag = if r.status = .ok then s.out.diag else { status := r.status, info := r.value } :: s.out.diag) ∧
    (i.context ≠ .main → t.out.responses = s.out.responses ∧ t.out.diag = s.out.diag)

/-- R150: the statuses each operation may answer, with their codes and their info values: BUS_ERROR with 1 or 2 (2
only from LDCAL), INIT_FAILURE with 1 .. 6, STALE_TFINE and NOT_READY with 0; no operation answers ILLEGAL. -/
def Obligations.StatusesAndInfoValues : Prop :=
  (Status.ok.code = 0 ∧ Status.busError.code = 1 ∧ Status.initFailure.code = 2 ∧ Status.staleTfine.code = 3 ∧
    Status.notReady.code = 4 ∧ Status.illegal.code = 5) ∧
  ∀ (i : Instr) (s t : State) (r : Response), exec i s = .next t → t.out.responses = r :: s.out.responses →
    mayAnswer i r.status = true ∧
    (r.status = .busError → r.value = 1 ∨ i = .ldcal ∧ r.value = 2) ∧
    (r.status = .initFailure → 1 ≤ r.value.toNat ∧ r.value.toNat ≤ 6) ∧
    (r.status = .staleTfine ∨ r.status = .notReady → r.value = 0)

/-- R16: when `ready` and `tfine_valid` change, for every operation MAIN issues and the response r it gets. `ready`
is written by INIT alone, and is 1 after it exactly when every step completed. `tfine_valid` is set by CONVT and
by a TASK that completes, cleared by a successful LDRAW or LDCAL (inside INIT: once step 5 succeeded), and
otherwise as it was. -/
def Obligations.FlagsSetAndCleared : Prop :=
  ∀ (i : Instr) (s t : State) (r : Response), exec i s = .next t → t.out.responses = r :: s.out.responses →
    t.engine.ready = (if i = .init then decide (r.status = .ok) else s.engine.ready) ∧
    t.engine.tfineValid =
      (if i = .convt then true
      else if i = .task ∧ r.status = .ok then true
      else if (i = .ldcal ∨ i = .ldraw) ∧ r.status = .ok then false
      else if i = .init ∧ (r.status = .ok ∨ r.value = 6) then false
      else s.engine.tfineValid)

/-- R150, R151, R154, R155, R157: after any exception but INIT's the engine is exactly as before the operation; after
INIT's, `ready` = 0. -/
def Obligations.ExceptionsLeaveTheEngine : Prop :=
  ∀ (i : Instr) (s t : State) (r : Response), exec i s = .next t → t.out.responses = r :: s.out.responses →
    r.status ≠ .ok → (i ≠ .init → t.engine = s.engine) ∧ (i = .init → t.engine.ready = false)

/-- R41, R52: every operation makes at most seven bus transactions, each to DEV_ADDR and each one of the seven the
spec lists. -/
def Obligations.BusTrafficBounded : Prop :=
  ∀ (i : Instr) (s t : State), exec i s = .next t →
    ∃ ts : List BusTransaction, t.out.bus = ts ++ s.out.bus ∧ ts.length ≤ 7 ∧ ∀ x ∈ ts, x ∈ initTraffic s.cfg

/-- R11, R12, R13, R18, R103: the value ranges of the registers, and `ie` = 1 between steps, are kept by every
step. -/
def Obligations.RegisterRangesKept : Prop :=
  ∀ s t : State, RangeInv s → step s = .next t → RangeInv t

/-- R14, R16, R178: every step keeps the same-cycle coupling: while `tfine_valid` is 1, `t_fine` and `out_T` are those
of the raw sample and the calibration now in the registers. -/
def Obligations.CycleCouplingKept : Prop :=
  ∀ s t : State, CycleInv s → step s = .next t → CycleInv t

/-- The reset state meets both invariants, for every configuration (R22). -/
def Obligations.ResetMeetsEngineInvariants : Prop :=
  (∀ c : Config, RangeInv (State.resetWith c) ∧ CycleInv (State.resetWith c)) ∧
  RangeInv State.reset ∧ CycleInv State.reset
end

