-- ==== Sys2Proof/Laws/Arith.lean ====
section
/-! SUPPORT. The primitives of R8: their ranges, when they are exact, and their agreement with the operations of
machine words. The agreement lemmas are oriented from the integer primitive on `toInt`s to the `toInt` of the
machine-word operation, so that `simp only` with them turns a whole compensation function into one. -/

namespace Sys2Proof.Laws

open Sys2Proof.Machine

/-! ### Ranges and exactness -/

theorem wrap32_range (v : Int) : -2147483648 ≤ wrap32 v ∧ wrap32 v ≤ 2147483647 := by
  unfold wrap32; omega

theorem wrap64_range (v : Int) : -9223372036854775808 ≤ wrap64 v ∧ wrap64 v ≤ 9223372036854775807 := by
  unfold wrap64; omega

theorem wrap32_eq_self {v : Int} (h₁ : -2147483648 ≤ v) (h₂ : v ≤ 2147483647) : wrap32 v = v := by
  unfold wrap32; omega

theorem wrap64_eq_self {v : Int} (h₁ : -9223372036854775808 ≤ v) (h₂ : v ≤ 9223372036854775807) :
    wrap64 v = v := by
  unfold wrap64; omega

theorem wrap32_eq_self_iff (v : Int) : wrap32 v = v ↔ -2147483648 ≤ v ∧ v ≤ 2147483647 := by
  unfold wrap32; omega

theorem asr_eq_div (a : Int) (n : Nat) : asr a n = a / 2 ^ n := by
  simp [asr]

theorem u32_range (v : Int) : 0 ≤ u32 v ∧ u32 v ≤ 4294967295 := by
  unfold u32; omega

theorem u32_eq_self {v : Int} (h₁ : 0 ≤ v) (h₂ : v ≤ 4294967295) : u32 v = v := by
  unfold u32; omega

theorem clampH_range (v : Int) : 0 ≤ clampH v ∧ clampH v ≤ 0x19000000 := by
  unfold clampH; split
  · omega
  · split <;> omega

/-! ### Agreement with 32-bit machine words -/

theorem wrap32_eq_toInt (v : Int) : wrap32 v = (BitVec.ofInt 32 v).toInt := by
  simp only [BitVec.toInt_ofInt, Int.bmod_def, wrap32]; norm_num; split <;> omega

theorem toWord_toInt (x : Word) : toWord x.toInt = x := BitVec.ofInt_toInt

theorem toInt_toWord (v : Int) : (toWord v).toInt = wrap32 v := (wrap32_eq_toInt v).symm

theorem toWord_wrap32 (v : Int) : toWord (wrap32 v) = toWord v := by
  rw [wrap32_eq_toInt]; exact toWord_toInt _

theorem add32_toInt (x y : Word) : add32 x.toInt y.toInt = (x + y).toInt := by
  rw [add32, wrap32_eq_toInt, BitVec.ofInt_add, BitVec.ofInt_toInt, BitVec.ofInt_toInt]

theorem mul32_toInt (x y : Word) : mul32 x.toInt y.toInt = (x * y).toInt := by
  rw [mul32, wrap32_eq_toInt, BitVec.ofInt_mul, BitVec.ofInt_toInt, BitVec.ofInt_toInt]

theorem sub32_toInt (x y : Word) : sub32 x.toInt y.toInt = (x - y).toInt := by
  rw [sub32, wrap32_eq_toInt, Int.sub_eq_add_neg, BitVec.ofInt_add, BitVec.ofInt_neg, BitVec.ofInt_toInt,
    BitVec.ofInt_toInt, BitVec.sub_eq_add_neg]

theorem shl32_toInt (x : Word) (n : Nat) : shl32 x.toInt n = (x <<< n).toInt := by
  rw [shl32, wrap32_eq_toInt, BitVec.ofInt_mul, BitVec.ofInt_toInt, BitVec.ofInt_natCast,
    BitVec.shiftLeft_eq_mul_twoPow]
  congr 2
  apply BitVec.eq_of_toNat_eq
  simp [BitVec.toNat_twoPow]

theorem asr_toInt {w : Nat} (x : BitVec w) (n : Nat) : asr x.toInt n = (x.sshiftRight n).toInt := by
  rw [asr, BitVec.toInt_sshiftRight, Int.shiftRight_eq_div_pow]

/-! ### Agreement with 64-bit machine words -/

theorem wrap64_eq_toInt (v : Int) : wrap64 v = (BitVec.ofInt 64 v).toInt := by
  simp only [BitVec.toInt_ofInt, Int.bmod_def, wrap64]; norm_num; split <;> omega

theorem add64_toInt (x y : BitVec 64) : add64 x.toInt y.toInt = (x + y).toInt := by
  rw [add64, wrap64_eq_toInt, BitVec.ofInt_add, BitVec.ofInt_toInt, BitVec.ofInt_toInt]

theorem mul64_toInt (x y : BitVec 64) : mul64 x.toInt y.toInt = (x * y).toInt := by
  rw [mul64, wrap64_eq_toInt, BitVec.ofInt_mul, BitVec.ofInt_toInt, BitVec.ofInt_toInt]

theorem sub64_toInt (x y : BitVec 64) : sub64 x.toInt y.toInt = (x - y).toInt := by
  rw [sub64, wrap64_eq_toInt, Int.sub_eq_add_neg, BitVec.ofInt_add, BitVec.ofInt_neg, BitVec.ofInt_toInt,
    BitVec.ofInt_toInt, BitVec.sub_eq_add_neg]

theorem shl64_toInt (x : BitVec 64) (n : Nat) : shl64 x.toInt n = (x <<< n).toInt := by
  rw [shl64, wrap64_eq_toInt, BitVec.ofInt_mul, BitVec.ofInt_toInt, BitVec.ofInt_natCast,
    BitVec.shiftLeft_eq_mul_twoPow]
  congr 2
  apply BitVec.eq_of_toNat_eq
  simp [BitVec.toNat_twoPow]

theorem sdiv64_toInt (x y : BitVec 64) : sdiv64 x.toInt y.toInt = (x.sdiv y).toInt := by
  rw [sdiv64, BitVec.toInt_sdiv, wrap64_eq_toInt, BitVec.toInt_ofInt]

theorem toWord_u32_toInt (x : BitVec 64) : toWord (u32 x.toInt) = x.setWidth 32 := by
  apply BitVec.eq_of_toInt_eq
  rw [toInt_toWord, BitVec.toInt_setWidth, BitVec.toInt_eq_toNat_bmod]
  simp only [wrap32, u32, Int.bmod_def]; norm_num; omega

/-! ### Coefficients of a narrower type (R9) -/

theorem toNat_eq_toInt_setWidth {n w : Nat} (h : n < w) (x : BitVec n) : (x.toNat : Int) = (x.setWidth w).toInt := by
  rw [BitVec.toInt_eq_toNat_of_lt]
  · rw [BitVec.toNat_setWidth_of_le h.le]
  · rw [BitVec.toNat_setWidth_of_le h.le]
    calc 2 * x.toNat < 2 * 2 ^ n := by have := x.isLt; omega
      _ = 2 ^ (n + 1) := by ring
      _ ≤ 2 ^ w := Nat.pow_le_pow_right (by norm_num) h

theorem toInt_eq_toInt_signExtend {n w : Nat} (h : n ≤ w) (x : BitVec n) : x.toInt = (x.signExtend w).toInt :=
  (BitVec.toInt_signExtend_of_le h).symm

end Sys2Proof.Laws
end

