-- ==== Sys2Proof/Laws/State.lean ====
section
/-! SUPPORT. One lemma per field and update, so that no proof unfolds a record update. -/

namespace Sys2Proof.Laws

open Sys2Proof.Machine

@[simp] theorem setTfineValid_engine (s : State) :
    (setTfineValid s).engine = { s.engine with tfineValid := true } := rfl
@[simp] theorem setTfineValid_lanes (s : State) : (setTfineValid s).lanes = s.lanes := rfl
@[simp] theorem setTfineValid_ie (s : State) : (setTfineValid s).ie = s.ie := rfl
@[simp] theorem setTfineValid_cfg (s : State) : (setTfineValid s).cfg = s.cfg := rfl
@[simp] theorem setTfineValid_env (s : State) : (setTfineValid s).env = s.env := rfl
@[simp] theorem setTfineValid_out (s : State) : (setTfineValid s).out = s.out := rfl

@[simp] theorem clearTfineValid_engine (s : State) :
    (clearTfineValid s).engine = { s.engine with tfineValid := false } := rfl
@[simp] theorem clearTfineValid_lanes (s : State) : (clearTfineValid s).lanes = s.lanes := rfl
@[simp] theorem clearTfineValid_ie (s : State) : (clearTfineValid s).ie = s.ie := rfl
@[simp] theorem clearTfineValid_cfg (s : State) : (clearTfineValid s).cfg = s.cfg := rfl
@[simp] theorem clearTfineValid_env (s : State) : (clearTfineValid s).env = s.env := rfl
@[simp] theorem clearTfineValid_out (s : State) : (clearTfineValid s).out = s.out := rfl

@[simp] theorem setReady_engine (s : State) : (setReady s).engine = { s.engine with ready := true } := rfl
@[simp] theorem setReady_lanes (s : State) : (setReady s).lanes = s.lanes := rfl
@[simp] theorem setReady_ie (s : State) : (setReady s).ie = s.ie := rfl
@[simp] theorem setReady_cfg (s : State) : (setReady s).cfg = s.cfg := rfl
@[simp] theorem setReady_env (s : State) : (setReady s).env = s.env := rfl
@[simp] theorem setReady_out (s : State) : (setReady s).out = s.out := rfl

@[simp] theorem clearReady_engine (s : State) : (clearReady s).engine = { s.engine with ready := false } := rfl
@[simp] theorem clearReady_lanes (s : State) : (clearReady s).lanes = s.lanes := rfl
@[simp] theorem clearReady_ie (s : State) : (clearReady s).ie = s.ie := rfl
@[simp] theorem clearReady_cfg (s : State) : (clearReady s).cfg = s.cfg := rfl
@[simp] theorem clearReady_env (s : State) : (clearReady s).env = s.env := rfl
@[simp] theorem clearReady_out (s : State) : (clearReady s).out = s.out := rfl

@[simp] theorem disableInterrupts_engine (s : State) : (disableInterrupts s).engine = s.engine := rfl
@[simp] theorem disableInterrupts_lanes (s : State) : (disableInterrupts s).lanes = s.lanes := rfl
@[simp] theorem disableInterrupts_ie (s : State) : (disableInterrupts s).ie = false := rfl
@[simp] theorem disableInterrupts_cfg (s : State) : (disableInterrupts s).cfg = s.cfg := rfl
@[simp] theorem disableInterrupts_env (s : State) : (disableInterrupts s).env = s.env := rfl
@[simp] theorem disableInterrupts_out (s : State) : (disableInterrupts s).out = s.out := rfl

@[simp] theorem enableInterrupts_engine (s : State) : (enableInterrupts s).engine = s.engine := rfl
@[simp] theorem enableInterrupts_lanes (s : State) : (enableInterrupts s).lanes = s.lanes := rfl
@[simp] theorem enableInterrupts_ie (s : State) : (enableInterrupts s).ie = true := rfl
@[simp] theorem enableInterrupts_cfg (s : State) : (enableInterrupts s).cfg = s.cfg := rfl
@[simp] theorem enableInterrupts_env (s : State) : (enableInterrupts s).env = s.env := rfl
@[simp] theorem enableInterrupts_out (s : State) : (enableInterrupts s).out = s.out := rfl

@[simp] theorem writeCalibration_engine (c : Calibration) (s : State) :
    (writeCalibration c s).engine = { s.engine with cal := c } := rfl
@[simp] theorem writeCalibration_lanes (c : Calibration) (s : State) : (writeCalibration c s).lanes = s.lanes := rfl
@[simp] theorem writeCalibration_ie (c : Calibration) (s : State) : (writeCalibration c s).ie = s.ie := rfl
@[simp] theorem writeCalibration_cfg (c : Calibration) (s : State) : (writeCalibration c s).cfg = s.cfg := rfl
@[simp] theorem writeCalibration_env (c : Calibration) (s : State) : (writeCalibration c s).env = s.env := rfl
@[simp] theorem writeCalibration_out (c : Calibration) (s : State) : (writeCalibration c s).out = s.out := rfl

@[simp] theorem writeRaw_engine (r : RawSample) (s : State) :
    (writeRaw r s).engine = { s.engine with raw := r } := rfl
@[simp] theorem writeRaw_lanes (r : RawSample) (s : State) : (writeRaw r s).lanes = s.lanes := rfl
@[simp] theorem writeRaw_ie (r : RawSample) (s : State) : (writeRaw r s).ie = s.ie := rfl
@[simp] theorem writeRaw_cfg (r : RawSample) (s : State) : (writeRaw r s).cfg = s.cfg := rfl
@[simp] theorem writeRaw_env (r : RawSample) (s : State) : (writeRaw r s).env = s.env := rfl
@[simp] theorem writeRaw_out (r : RawSample) (s : State) : (writeRaw r s).out = s.out := rfl

@[simp] theorem transact_engine (t : BusTransaction) (s : State) : (transact t s).engine = s.engine := rfl
@[simp] theorem transact_lanes (t : BusTransaction) (s : State) : (transact t s).lanes = s.lanes := rfl
@[simp] theorem transact_ie (t : BusTransaction) (s : State) : (transact t s).ie = s.ie := rfl
@[simp] theorem transact_cfg (t : BusTransaction) (s : State) : (transact t s).cfg = s.cfg := rfl
@[simp] theorem transact_env (t : BusTransaction) (s : State) :
    (transact t s).env = { s.env with busIn := s.env.busIn.tail, busCount := s.env.busCount + 1 } := rfl
@[simp] theorem transact_out (t : BusTransaction) (s : State) :
    (transact t s).out = { s.out with bus := t :: s.out.bus } := rfl

@[simp] theorem respond_engine (st : Status) (v : Word) (s : State) : (respond st v s).engine = s.engine := rfl
@[simp] theorem respond_lanes (st : Status) (v : Word) (s : State) : (respond st v s).lanes = s.lanes := rfl
@[simp] theorem respond_ie (st : Status) (v : Word) (s : State) : (respond st v s).ie = s.ie := rfl
@[simp] theorem respond_cfg (st : Status) (v : Word) (s : State) : (respond st v s).cfg = s.cfg := rfl
@[simp] theorem respond_env (st : Status) (v : Word) (s : State) : (respond st v s).env = s.env := rfl
@[simp] theorem respond_out (st : Status) (v : Word) (s : State) :
    (respond st v s).out = { s.out with responses := { status := st, value := v } :: s.out.responses } := rfl

@[simp] theorem setLane_engine (l : Lane) (x : LaneState) (s : State) : (s.setLane l x).engine = s.engine := rfl
@[simp] theorem setLane_lanes (l : Lane) (x : LaneState) (s : State) : (s.setLane l x).lanes = s.lanes.set l x := rfl
@[simp] theorem setLane_ie (l : Lane) (x : LaneState) (s : State) : (s.setLane l x).ie = s.ie := rfl
@[simp] theorem setLane_cfg (l : Lane) (x : LaneState) (s : State) : (s.setLane l x).cfg = s.cfg := rfl
@[simp] theorem setLane_env (l : Lane) (x : LaneState) (s : State) : (s.setLane l x).env = s.env := rfl
@[simp] theorem setLane_out (l : Lane) (x : LaneState) (s : State) : (s.setLane l x).out = s.out := rfl

@[simp] theorem applyReset_engine (s : State) : (applyReset s).engine = Engine.reset := rfl
@[simp] theorem applyReset_lanes (s : State) : (applyReset s).lanes = Lanes.reset := rfl
@[simp] theorem applyReset_ie (s : State) : (applyReset s).ie = true := rfl
@[simp] theorem applyReset_cfg (s : State) : (applyReset s).cfg = s.cfg := rfl
@[simp] theorem applyReset_env (s : State) : (applyReset s).env = s.env := rfl
@[simp] theorem applyReset_out (s : State) : (applyReset s).out = s.out := rfl

@[simp] theorem queueWord_engine (w : Byte) (s : State) : (queueWord w s).engine = s.engine := rfl
@[simp] theorem queueWord_lanes (w : Byte) (s : State) : (queueWord w s).lanes = s.lanes := rfl
@[simp] theorem queueWord_ie (w : Byte) (s : State) : (queueWord w s).ie = s.ie := rfl
@[simp] theorem queueWord_cfg (w : Byte) (s : State) : (queueWord w s).cfg = s.cfg := rfl
@[simp] theorem queueWord_env (w : Byte) (s : State) :
    (queueWord w s).env = { s.env with inputs := .word w :: s.env.inputs } := rfl
@[simp] theorem queueWord_out (w : Byte) (s : State) : (queueWord w s).out = s.out := rfl

@[simp] theorem afterBus_engine (ts : List BusTransaction) (s : State) : (s.afterBus ts).engine = s.engine := rfl
@[simp] theorem afterBus_lanes (ts : List BusTransaction) (s : State) : (s.afterBus ts).lanes = s.lanes := rfl
@[simp] theorem afterBus_ie (ts : List BusTransaction) (s : State) : (s.afterBus ts).ie = s.ie := rfl
@[simp] theorem afterBus_cfg (ts : List BusTransaction) (s : State) : (s.afterBus ts).cfg = s.cfg := rfl
@[simp] theorem afterBus_env (ts : List BusTransaction) (s : State) :
    (s.afterBus ts).env = { s.env with busIn := s.env.busIn.drop ts.length, busCount := s.env.busCount + ts.length } := rfl
@[simp] theorem afterBus_out (ts : List BusTransaction) (s : State) :
    (s.afterBus ts).out = { s.out with bus := ts.reverse ++ s.out.bus } := rfl

@[simp] theorem answered_engine (st : Status) (v : Word) (s : State) : (s.answered st v).engine = s.engine := rfl
@[simp] theorem answered_lanes (st : Status) (v : Word) (s : State) : (s.answered st v).lanes = s.lanes := rfl
@[simp] theorem answered_ie (st : Status) (v : Word) (s : State) : (s.answered st v).ie = s.ie := rfl
@[simp] theorem answered_cfg (st : Status) (v : Word) (s : State) : (s.answered st v).cfg = s.cfg := rfl
@[simp] theorem answered_env (st : Status) (v : Word) (s : State) : (s.answered st v).env = s.env := rfl
@[simp] theorem answered_out (st : Status) (v : Word) (s : State) :
    (s.answered st v).out = { s.out with responses := { status := st, value := v } :: s.out.responses } := rfl

@[simp] theorem failed_engine (st : Status) (v : Word) (s : State) : (s.failed st v).engine = s.engine := rfl
@[simp] theorem failed_lanes (st : Status) (v : Word) (s : State) : (s.failed st v).lanes = s.lanes := rfl
@[simp] theorem failed_ie (st : Status) (v : Word) (s : State) : (s.failed st v).ie = s.ie := rfl
@[simp] theorem failed_cfg (st : Status) (v : Word) (s : State) : (s.failed st v).cfg = s.cfg := rfl
@[simp] theorem failed_env (st : Status) (v : Word) (s : State) : (s.failed st v).env = s.env := rfl
@[simp] theorem failed_out (st : Status) (v : Word) (s : State) :
    (s.failed st v).out = { s.out with
      responses := { status := st, value := v } :: s.out.responses
      diag := { status := st, info := v } :: s.out.diag } := rfl

@[simp] theorem restartTimer_engine (l : Lane) (s : State) : (restartTimer l s).engine = s.engine := by cases l <;> rfl
@[simp] theorem restartTimer_lanes (l : Lane) (s : State) : (restartTimer l s).lanes = s.lanes := by cases l <;> rfl
@[simp] theorem restartTimer_ie (l : Lane) (s : State) : (restartTimer l s).ie = s.ie := by cases l <;> rfl
@[simp] theorem restartTimer_cfg (l : Lane) (s : State) : (restartTimer l s).cfg = s.cfg := by cases l <;> rfl
@[simp] theorem restartTimer_env (l : Lane) (s : State) : (restartTimer l s).env = s.env := by cases l <;> rfl

/-- Each of the three logs is left alone by a timer restart. -/
@[simp] theorem restartTimer_responses (l : Lane) (s : State) :
    (restartTimer l s).out.responses = s.out.responses := by cases l <;> rfl

@[simp] theorem restartTimer_bus (l : Lane) (s : State) : (restartTimer l s).out.bus = s.out.bus := by
  cases l <;> rfl

@[simp] theorem restartTimer_diag (l : Lane) (s : State) : (restartTimer l s).out.diag = s.out.diag := by
  cases l <;> rfl

@[simp] theorem lanes_get_set (ls : Lanes) (l : Lane) (x : LaneState) : (ls.set l x).get l = x := by
  cases l <;> rfl

theorem lanes_get_set_of_ne (ls : Lanes) {l k : Lane} (h : k ≠ l) (x : LaneState) :
    (ls.set l x).get k = ls.get k := by
  cases l <;> cases k <;> first | rfl | exact absurd rfl h

@[simp] theorem lane_eq_get (s : State) (l : Lane) : s.lanes.get l = s.lane l := rfl

/-- `nextInput` on a queue with a head takes the head off and does nothing else. -/
theorem nextInput_cons {s : State} {i : Input} {rest : List Input} (h : s.env.inputs = i :: rest) :
    nextInput s = some (i, { s with env := { s.env with inputs := rest } }) := by
  simp [nextInput, h]

theorem nextInput_nil {s : State} (h : s.env.inputs = []) : nextInput s = none := by
  simp [nextInput, h]

end Sys2Proof.Laws
end

