-- ==== Sys2Proof/Laws/Ops.lean ====
section
/-! SUPPORT. One lemma per shared operation, saying once everything it can do, in the vocabulary of Safety.lean:
`answered`, `failed`, `afterBus`, `answerAt`. Proofs cite these instead of unfolding the operations. -/

namespace Sys2Proof.Laws

open Sys2Proof.Machine

/-! ### Answers and exceptions -/

theorem respond_eq_answered (st : Status) (v : Word) (s : State) : respond st v s = s.answered st v := rfl

theorem raise_eq_failed (e : Status) (info : Nat) (s : State) : raise e info s = s.failed e (BitVec.ofNat 32 info) := rfl

theorem conclude_ok (v : Word) (s : State) : conclude (.ok v s) = s.answered .ok v := rfl

theorem conclude_raised (e : Status) (info : Nat) (s : State) :
    conclude (.raised e info s) = s.failed e (BitVec.ofNat 32 info) := rfl

/-- `andThen` runs the next step exactly when the last one is done. -/
theorem andThen_ok {α β : Type} (a : α) (s : State) (k : α → State → Attempt β) :
    (Attempt.ok a s).andThen k = k a s := rfl

theorem andThen_raised {α β : Type} (e : Status) (info : Nat) (s : State) (k : α → State → Attempt β) :
    (Attempt.raised e info s : Attempt α).andThen k = .raised e info s := rfl

theorem reportAs_ok {α : Type} (e : Status) (info : Nat) (a : α) (s : State) :
    (Attempt.ok a s).reportAs e info = .ok a s := rfl

theorem reportAs_raised {α : Type} (e e' : Status) (info info' : Nat) (s : State) :
    (Attempt.raised e' info' s : Attempt α).reportAs e info = .raised e info s := rfl

/-! ### The bus -/

theorem busAnswer_eq_answerAt (s : State) : busAnswer s = answerAt s 0 := by
  unfold busAnswer answerAt; cases s.env.busIn <;> rfl

theorem transact_eq_afterBus (t : BusTransaction) (s : State) : transact t s = s.afterBus [t] := by
  simp [transact, State.afterBus]

/-- Making transactions one after the other is making them together. -/
theorem afterBus_append (s : State) (ts us : List BusTransaction) :
    (s.afterBus ts).afterBus us = s.afterBus (ts ++ us) := by
  simp [State.afterBus, Nat.add_assoc]

/-- The k-th answer after some transactions is the k-th after as many answers. -/
theorem answerAt_afterBus (s : State) (ts : List BusTransaction) (k : Nat) :
    answerAt (s.afterBus ts) k = answerAt s (ts.length + k) := by
  simp [answerAt, State.afterBus, List.getD_eq_getElem?_getD, List.getElem?_drop, Nat.add_assoc]

/-- The answers to come do not depend on the engine. -/
theorem answerAt_engine (s : State) (e : Engine) (k : Nat) : answerAt { s with engine := e } k = answerAt s k := rfl

theorem isAck_iff (a : BusAnswer) : isAck a = true ↔ a = .ack := by cases a <;> simp [isAck]

theorem readResult_of_delivers {a : BusAnswer} {n : Nat} {bs : List Byte} (h : Delivers a n bs) :
    readResult n a = some bs := by
  obtain ⟨rfl, h⟩ := h; simp [readResult, h]

theorem readResult_of_failsRead {a : BusAnswer} {n : Nat} (h : FailsRead a n) : readResult n a = none := by
  cases a with
  | fail => rfl
  | ack => rfl
  | bytes bs =>
    have : bs.length ≠ n := fun e => h bs ⟨rfl, e⟩
    simp [readResult, this]

/-- A read of n bytes is answered whole or fails wholly (R41). -/
theorem delivers_or_failsRead (a : BusAnswer) (n : Nat) : (∃ bs, Delivers a n bs) ∨ FailsRead a n := by
  by_cases h : ∃ bs, Delivers a n bs
  · exact .inl h
  · exact .inr fun bs hb => h ⟨bs, hb⟩

theorem ping_of_ack {e : Status} {info : Nat} {s : State} (h : answerAt s 0 = .ack) :
    ping e info s = .ok () (s.afterBus [.ping s.cfg.devAddr]) := by
  simp [ping, busAnswer_eq_answerAt, h, isAck, transact_eq_afterBus]

theorem ping_of_not_ack {e : Status} {info : Nat} {s : State} (h : answerAt s 0 ≠ .ack) :
    ping e info s = .raised e info (s.afterBus [.ping s.cfg.devAddr]) := by
  simp [ping, busAnswer_eq_answerAt, isAck_iff, h, transact_eq_afterBus]

theorem memWrite_of_ack {r b : Byte} {e : Status} {info : Nat} {s : State} (h : answerAt s 0 = .ack) :
    memWrite r b e info s = .ok () (s.afterBus [.writeRegister s.cfg.devAddr r b]) := by
  simp [memWrite, busAnswer_eq_answerAt, h, isAck, transact_eq_afterBus]

theorem memWrite_of_not_ack {r b : Byte} {e : Status} {info : Nat} {s : State} (h : answerAt s 0 ≠ .ack) :
    memWrite r b e info s = .raised e info (s.afterBus [.writeRegister s.cfg.devAddr r b]) := by
  simp [memWrite, busAnswer_eq_answerAt, isAck_iff, h, transact_eq_afterBus]

theorem memRead_of_delivers {r : Byte} {n : Nat} {e : Status} {info : Nat} {s : State} {bs : List Byte}
    (h : Delivers (answerAt s 0) n bs) :
    memRead r n e info s = .ok bs (s.afterBus [.readRegisters s.cfg.devAddr r n]) := by
  simp [memRead, busAnswer_eq_answerAt, readResult_of_delivers h, transact_eq_afterBus]

theorem memRead_of_failsRead {r : Byte} {n : Nat} {e : Status} {info : Nat} {s : State}
    (h : FailsRead (answerAt s 0) n) :
    memRead r n e info s = .raised e info (s.afterBus [.readRegisters s.cfg.devAddr r n]) := by
  simp [memRead, busAnswer_eq_answerAt, readResult_of_failsRead h, transact_eq_afterBus]

/-! ### The steps of the loads: everything they can do -/

/-- LDRAW's steps end in the new sample with `tfine_valid` cleared, or in BusError(1) with nothing written. -/
theorem ldrawSteps_cases (s : State) :
    (∃ d, Delivers (answerAt s 0) 8 d ∧
      ldrawSteps s = .ok 0 { s.afterBus (ldrawTraffic s.cfg) with
        engine := { s.engine with raw := unpackRaw d, tfineValid := false } }) ∨
    (FailsRead (answerAt s 0) 8 ∧ ldrawSteps s = .raised .busError 1 (s.afterBus (ldrawTraffic s.cfg))) := by
  rcases delivers_or_failsRead (answerAt s 0) 8 with ⟨d, hd⟩ | hf
  · exact .inl ⟨d, hd, by rw [ldrawSteps, memRead_of_delivers hd]; rfl⟩
  · exact .inr ⟨hf, by rw [ldrawSteps, memRead_of_failsRead hf]; rfl⟩

/-- LDCAL's steps end in the new calibration with `tfine_valid` cleared, or in BusError 1 or 2 with nothing
written. -/
theorem ldcalSteps_cases (s : State) :
    (∃ a b, Delivers (answerAt s 0) 26 a ∧ Delivers (answerAt s 1) 7 b ∧
      ldcalSteps s = .ok 0 { s.afterBus (ldcalTraffic s.cfg) with
        engine := { s.engine with
          cal := unpackCalibration s.cfg.h45SignExtend a b, tfineValid := false } }) ∨
    (FailsRead (answerAt s 0) 26 ∧
      ldcalSteps s = .raised .busError 1 (s.afterBus ((ldcalTraffic s.cfg).take 1))) ∨
    (∃ a, Delivers (answerAt s 0) 26 a ∧ FailsRead (answerAt s 1) 7 ∧
      ldcalSteps s = .raised .busError 2 (s.afterBus (ldcalTraffic s.cfg))) := by
  rcases delivers_or_failsRead (answerAt s 0) 26 with ⟨a, ha⟩ | hf
  · rcases delivers_or_failsRead (answerAt s 1) 7 with ⟨b, hb⟩ | hf
    · refine .inl ⟨a, b, ha, hb, ?_⟩
      rw [ldcalSteps, memRead_of_delivers ha, andThen_ok,
        memRead_of_delivers (by rw [answerAt_afterBus]; exact hb), andThen_ok, afterBus_append]
      rfl
    · refine .inr (.inr ⟨a, ha, hf, ?_⟩)
      rw [ldcalSteps, memRead_of_delivers ha, andThen_ok,
        memRead_of_failsRead (by rw [answerAt_afterBus]; exact hf), andThen_raised, afterBus_append]
      rfl
  · exact .inr (.inl ⟨hf, by rw [ldcalSteps, memRead_of_failsRead hf]; rfl⟩)

end Sys2Proof.Laws
end

