-- ==== Sys2Proof/Laws/Steps.lean ====
section
/-! SUPPORT. What the steps of the composite operations and of the lane handlers can do, each said once. -/

namespace Sys2Proof.Laws

open Sys2Proof.Machine

/-! ### INIT (R120) -/

/-- The state INIT has reached after its first n transactions, before it loads anything: `ready` 0. -/
def initMade (s : State) (n : Nat) : State :=
  { s.afterBus ((initTraffic s.cfg).take n) with engine := { s.engine with ready := false } }

theorem initMade_cfg (s : State) (n : Nat) : (initMade s n).cfg = s.cfg := rfl

theorem answerAt_initMade (s : State) {n : Nat} (h : n ≤ 7) (k : Nat) :
    answerAt (initMade s n) k = answerAt s (n + k) := by
  have hn : ((initTraffic s.cfg).take n).length = n := by
    rw [List.length_take]; exact Nat.min_eq_left h
  calc answerAt (initMade s n) k = answerAt (s.afterBus ((initTraffic s.cfg).take n)) k := rfl
    _ = answerAt s (((initTraffic s.cfg).take n).length + k) := answerAt_afterBus ..
    _ = answerAt s (n + k) := by rw [hn]

/-- The next transactions of INIT's list. -/
theorem initMade_afterBus (s : State) (n m : Nat) (ts : List BusTransaction)
    (h : (initTraffic s.cfg).take n ++ ts = (initTraffic s.cfg).take m) :
    (initMade s n).afterBus ts = initMade s m := by
  have h' := afterBus_append s ((initTraffic s.cfg).take n) ts
  rw [h] at h'
  calc (initMade s n).afterBus ts
      = { (s.afterBus ((initTraffic s.cfg).take n)).afterBus ts with
          engine := { s.engine with ready := false } } := rfl
    _ = initMade s m := by rw [h']; rfl

/-- INIT up to its three configuration writes: the first transaction that is not acknowledged ends it, with the
number of its step. -/
theorem initSteps_config (s : State) :
    (∃ k, k < 4 ∧ (∀ j, j < k → answerAt s j = .ack) ∧ answerAt s k ≠ .ack ∧
      initSteps s = .raised .initFailure (k + 1) (initMade s (k + 1))) ∨
    ((∀ j, j < 4 → answerAt s j = .ack) ∧
      initSteps s =
        ((ldcalSteps (initMade s 4)).reportAs .initFailure 5).andThen fun _ s =>
        ((ldrawSteps s).reportAs .initFailure 6).andThen fun _ s => .ok 0 (setReady s)) := by
  have e0 : clearReady s = initMade s 0 := by simp [clearReady, initMade, State.afterBus]
  have at' : ∀ {n a}, n ≤ 7 → answerAt s n = a → answerAt (initMade s n) 0 = a := by
    intro n a h ha; rw [answerAt_initMade s h]; exact ha
  have ne' : ∀ {n}, n ≤ 7 → answerAt s n ≠ .ack → answerAt (initMade s n) 0 ≠ .ack := by
    intro n h ha; rw [answerAt_initMade s h]; exact ha
  have m1 : (initMade s 0).afterBus [.ping (initMade s 0).cfg.devAddr] = initMade s 1 :=
    initMade_afterBus s 0 1 _ rfl
  have m2 : (initMade s 1).afterBus
      [.writeRegister (initMade s 1).cfg.devAddr (initMade s 1).cfg.regCtrlHum (initMade s 1).cfg.cfgHum] =
      initMade s 2 := initMade_afterBus s 1 2 _ rfl
  have m3 : (initMade s 2).afterBus
      [.writeRegister (initMade s 2).cfg.devAddr (initMade s 2).cfg.regConfig (initMade s 2).cfg.cfgConfig] =
      initMade s 3 := initMade_afterBus s 2 3 _ rfl
  have m4 : (initMade s 3).afterBus
      [.writeRegister (initMade s 3).cfg.devAddr (initMade s 3).cfg.regCtrlMeas (initMade s 3).cfg.cfgMeas] =
      initMade s 4 := initMade_afterBus s 3 4 _ rfl
  unfold initSteps
  rw [e0]
  by_cases h0 : answerAt s 0 = .ack
  swap
  · refine .inl ⟨0, by omega, by omega, h0, ?_⟩
    rw [ping_of_not_ack (ne' (by omega) h0), andThen_raised, m1]
  rw [ping_of_ack (at' (by omega) h0), andThen_ok, m1]
  by_cases h1 : answerAt s 1 = .ack
  swap
  · refine .inl ⟨1, by omega, fun j hj => ?_, h1, ?_⟩
    · interval_cases j; exact h0
    · rw [memWrite_of_not_ack (ne' (n := 1) (by omega) h1), andThen_raised, m2]
  rw [memWrite_of_ack (at' (n := 1) (by omega) h1), andThen_ok, m2]
  by_cases h2 : answerAt s 2 = .ack
  swap
  · refine .inl ⟨2, by omega, fun j hj => ?_, h2, ?_⟩
    · interval_cases j <;> assumption
    · rw [memWrite_of_not_ack (ne' (n := 2) (by omega) h2), andThen_raised, m3]
  rw [memWrite_of_ack (at' (n := 2) (by omega) h2), andThen_ok, m3]
  by_cases h3 : answerAt s 3 = .ack
  swap
  · refine .inl ⟨3, by omega, fun j hj => ?_, h3, ?_⟩
    · interval_cases j <;> assumption
    · rw [memWrite_of_not_ack (ne' (n := 3) (by omega) h3), andThen_raised, m4]
  rw [memWrite_of_ack (at' (n := 3) (by omega) h3), andThen_ok, m4]
  refine .inr ⟨fun j hj => ?_, rfl⟩
  interval_cases j <;> assumption

/-- Everything INIT's steps can do: complete, or fail at a step with the effects of the steps before it. -/
theorem initSteps_cases (s : State) :
    (∃ a b d, (∀ j, j < 4 → answerAt s j = .ack) ∧ Delivers (answerAt s 4) 26 a ∧
      Delivers (answerAt s 5) 7 b ∧ Delivers (answerAt s 6) 8 d ∧
      initSteps s = .ok 0 { s.afterBus (initTraffic s.cfg) with
        engine := { s.engine with
          cal := unpackCalibration s.cfg.h45SignExtend a b
          raw := unpackRaw d
          ready := true
          tfineValid := false } }) ∨
    (∃ k, k < 4 ∧ (∀ j, j < k → answerAt s j = .ack) ∧ answerAt s k ≠ .ack ∧
      initSteps s = .raised .initFailure (k + 1) (initMade s (k + 1))) ∨
    ((∀ j, j < 4 → answerAt s j = .ack) ∧ FailsRead (answerAt s 4) 26 ∧
      initSteps s = .raised .initFailure 5 (initMade s 5)) ∨
    (∃ a, (∀ j, j < 4 → answerAt s j = .ack) ∧ Delivers (answerAt s 4) 26 a ∧ FailsRead (answerAt s 5) 7 ∧
      initSteps s = .raised .initFailure 5 (initMade s 6)) ∨
    (∃ a b, (∀ j, j < 4 → answerAt s j = .ack) ∧ Delivers (answerAt s 4) 26 a ∧
      Delivers (answerAt s 5) 7 b ∧ FailsRead (answerAt s 6) 8 ∧
      initSteps s = .raised .initFailure 6 { s.afterBus (initTraffic s.cfg) with
        engine := { s.engine with
          cal := unpackCalibration s.cfg.h45SignExtend a b
          ready := false
          tfineValid := false } }) := by
  rcases initSteps_config s with h | ⟨hack, he⟩
  · exact .inr (.inl h)
  rcases ldcalSteps_cases (initMade s 4) with ⟨a, b, ha, hb, hl⟩ | ⟨hf, hl⟩ | ⟨a, ha, hf, hl⟩ <;>
    rw [hl] at he <;> simp only [answerAt_initMade s (n := 4) (by omega)] at *
  · rw [reportAs_ok, andThen_ok] at he
    generalize hu : ({ (initMade s 4).afterBus (ldcalTraffic (initMade s 4).cfg) with
        engine := { (initMade s 4).engine with
          cal := unpackCalibration (initMade s 4).cfg.h45SignExtend a b, tfineValid := false } } : State) = u at he
    have hans : answerAt u 0 = answerAt s 6 := by
      rw [← hu]
      exact (answerAt_afterBus (initMade s 4) _ 0).trans (answerAt_initMade s (by omega) 2)
    have hbus : u.afterBus (ldrawTraffic u.cfg) = { s.afterBus (initTraffic s.cfg) with
        engine := { s.engine with
          cal := unpackCalibration s.cfg.h45SignExtend a b, ready := false, tfineValid := false } } := by
      rw [← hu]
      simp [initMade, State.afterBus, initTraffic, ldcalTraffic, ldrawTraffic, Nat.add_assoc]
    rcases ldrawSteps_cases u with ⟨d, hd, hr⟩ | ⟨hf, hr⟩ <;> rw [hr] at he <;> rw [hans] at *
    · refine .inl ⟨a, b, d, hack, ha, hb, hd, he.trans ?_⟩
      rw [reportAs_ok, andThen_ok, hbus, ← hu]; rfl
    · refine .inr (.inr (.inr (.inr ⟨a, b, hack, ha, hb, hf, he.trans ?_⟩)))
      rw [reportAs_raised, andThen_raised, hbus]
  · refine .inr (.inr (.inl ⟨hack, hf, he.trans ?_⟩))
    rw [reportAs_raised, andThen_raised]
    exact congrArg _ (initMade_afterBus s 4 5 _ rfl)
  · refine .inr (.inr (.inr (.inl ⟨a, hack, ha, hf, he.trans ?_⟩)))
    rw [reportAs_raised, andThen_raised]
    exact congrArg _ (initMade_afterBus s 4 6 _ rfl)

/-! ### TASK (R122) -/

/-- The engine after the three conversions of a cycle: each reads what the ones before it wrote. -/
def convertedT (c : Config) (e : Engine) : Engine :=
  { e with
    tFine := toWord (temperatureOf e).2
    outT := toWord (sub32 (temperatureOf e).1 c.tempOffset.toInt)
    tfineValid := true }

def convertedP (e : Engine) : Engine := { e with outP := toWord (pressureOf e) }

def convertedH (e : Engine) : Engine := { e with outH := toWord (humidityOf e) }

theorem convtSteps_eq (s : State) :
    convtSteps s = .ok (convertedT s.cfg s.engine).outT { s with engine := convertedT s.cfg s.engine } := rfl

theorem convpSteps_of_valid {s : State} (h : s.engine.tfineValid = true) :
    convpSteps s = .ok (convertedP s.engine).outP { s with engine := convertedP s.engine } := by
  simp [convpSteps, h, convertedP]

theorem convpSteps_of_stale {s : State} (h : s.engine.tfineValid = false) :
    convpSteps s = .raised .staleTfine 0 s := by
  simp [convpSteps, h]

theorem convhSteps_of_valid {s : State} (h : s.engine.tfineValid = true) :
    convhSteps s = .ok (convertedH s.engine).outH { s with engine := convertedH s.engine } := by
  simp [convhSteps, h, convertedH]

theorem convhSteps_of_stale {s : State} (h : s.engine.tfineValid = false) :
    convhSteps s = .raised .staleTfine 0 s := by
  simp [convhSteps, h]

/-- Everything TASK's steps can do: a whole cycle on the new sample, BusError(1) with the engine as before, or
NotReady with nothing done. -/
theorem taskSteps_cases (s : State) :
    (∃ d, s.engine.ready = true ∧ Delivers (answerAt s 0) 8 d ∧
      taskSteps s = .ok 0 { s.afterBus (ldrawTraffic s.cfg) with
        engine := convertedH (convertedP (convertedT s.cfg
          { s.engine with raw := unpackRaw d, tfineValid := false })) }) ∨
    (s.engine.ready = true ∧ FailsRead (answerAt s 0) 8 ∧
      taskSteps s = .raised .busError 1 (s.afterBus (ldrawTraffic s.cfg))) ∨
    (s.engine.ready = false ∧ taskSteps s = .raised .notReady 0 s) := by
  by_cases hr : s.engine.ready = true
  · rcases ldrawSteps_cases s with ⟨d, hd, h⟩ | ⟨hf, h⟩
    · refine .inl ⟨d, hr, hd, ?_⟩
      rw [taskSteps, if_pos hr, h, reportAs_ok, andThen_ok, convtSteps_eq, andThen_ok, convpSteps_of_valid rfl,
        andThen_ok, convhSteps_of_valid rfl, andThen_ok]
      rfl
    · refine .inr (.inl ⟨hr, hf, ?_⟩)
      rw [taskSteps, if_pos hr, h, reportAs_raised, andThen_raised]
  · exact .inr (.inr ⟨by simpa using hr, by rw [taskSteps, if_neg hr]⟩)

/-! ### The lanes (R136, R138) -/

/-- Everything a tick does to its lane. -/
theorem tickLane_cases (c : Config) (x : LaneState) :
    (x.armed = false ∧ tickLane c x = x) ∨
    (x.armed = true ∧ x.counter + 1 = threshold c x ∧
      tickLane c x = { state := x.state.toggle, armed := false, counter := x.counter + 1 }) ∨
    (x.armed = true ∧ x.counter + 1 ≠ threshold c x ∧ tickLane c x = { x with counter := x.counter + 1 }) := by
  by_cases ha : x.armed = true
  · by_cases ht : x.counter + 1 = threshold c x
    · exact .inr (.inl ⟨ha, ht, by rw [tickLane, if_pos ha]; exact if_pos ht⟩)
    · exact .inr (.inr ⟨ha, ht, by rw [tickLane, if_pos ha]; exact if_neg ht⟩)
  · exact .inl ⟨by simpa using ha, by rw [tickLane, if_neg ha]⟩

/-- A tick handler replaces its lane and nothing else. -/
theorem handler_tickBody (l : Lane) (s : State) :
    handler (tickBody l) s = s.afterHandler l (tickLane s.cfg (s.lane l)) := by
  cases l <;> rfl

/-- What the edge handler leaves in a lane. -/
theorem lane_handler_edgeBody (m : LaneSet) (l : Lane) (s : State) :
    (handler (edgeBody m) s).lane l = if m.mem l then edgeLane (s.lane l) else s.lane l := by
  cases l <;> cases h0 : m.lane0 <;> cases h1 : m.lane1 <;>
    simp [handler, edgeBody, edgeOne, LaneSet.mem, h0, h1, State.lane, State.setLane, Lanes.get, Lanes.set]

end Sys2Proof.Laws
end

