-- ==== Sys2Proof/Laws/Exec.lean ====
section
/-! SUPPORT. Everything an operation can do, said once: `Does i s t` lists the ways operation i can take state s to
state t, and `exec_does` says there are no others. A whole-machine claim is then one case analysis on `Does`. -/

namespace Sys2Proof.Laws

open Sys2Proof.Machine

/-- Operation i takes s to t. One constructor per way an operation can end. -/
inductive Does : Instr → State → State → Prop where
  | convt (s : State) :
      Does .convt s (State.answered { s with engine := convertedT s.cfg s.engine } .ok
        (convertedT s.cfg s.engine).outT)
  | convp (s : State) (hv : s.engine.tfineValid = true) :
      Does .convp s (State.answered { s with engine := convertedP s.engine } .ok (convertedP s.engine).outP)
  | convpStale (s : State) (hv : s.engine.tfineValid = false) : Does .convp s (s.failed .staleTfine 0)
  | convh (s : State) (hv : s.engine.tfineValid = true) :
      Does .convh s (State.answered { s with engine := convertedH s.engine } .ok (convertedH s.engine).outH)
  | convhStale (s : State) (hv : s.engine.tfineValid = false) : Does .convh s (s.failed .staleTfine 0)
  | ldcal (s : State) (a b : List Byte) (ha : Delivers (answerAt s 0) 26 a) (hb : Delivers (answerAt s 1) 7 b) :
      Does .ldcal s (State.answered { s.afterBus (ldcalTraffic s.cfg) with
        engine := { s.engine with
          cal := unpackCalibration s.cfg.h45SignExtend a b, tfineValid := false } } .ok 0)
  | ldcalFailsA (s : State) (hf : FailsRead (answerAt s 0) 26) :
      Does .ldcal s ((s.afterBus ((ldcalTraffic s.cfg).take 1)).failed .busError 1)
  | ldcalFailsB (s : State) (a : List Byte) (ha : Delivers (answerAt s 0) 26 a)
      (hf : FailsRead (answerAt s 1) 7) :
      Does .ldcal s ((s.afterBus (ldcalTraffic s.cfg)).failed .busError 2)
  | ldraw (s : State) (d : List Byte) (hd : Delivers (answerAt s 0) 8 d) :
      Does .ldraw s (State.answered { s.afterBus (ldrawTraffic s.cfg) with
        engine := { s.engine with raw := unpackRaw d, tfineValid := false } } .ok 0)
  | ldrawFails (s : State) (hf : FailsRead (answerAt s 0) 8) :
      Does .ldraw s ((s.afterBus (ldrawTraffic s.cfg)).failed .busError 1)
  | init (s : State) (a b d : List Byte) (hack : ∀ j, j < 4 → answerAt s j = .ack)
      (ha : Delivers (answerAt s 4) 26 a) (hb : Delivers (answerAt s 5) 7 b) (hd : Delivers (answerAt s 6) 8 d) :
      Does .init s (State.answered { s.afterBus (initTraffic s.cfg) with
        engine := { s.engine with
          cal := unpackCalibration s.cfg.h45SignExtend a b
          raw := unpackRaw d
          ready := true
          tfineValid := false } } .ok 0)
  | initFails (s : State) (n step : Nat) (hn : n ≤ 6) (h₁ : 1 ≤ step) (h₂ : step ≤ 5) :
      Does .init s ((initMade s n).failed .initFailure (BitVec.ofNat 32 step))
  | initFailsLast (s : State) (a b : List Byte) (ha : Delivers (answerAt s 4) 26 a)
      (hb : Delivers (answerAt s 5) 7 b) :
      Does .init s (State.failed { s.afterBus (initTraffic s.cfg) with
        engine := { s.engine with
          cal := unpackCalibration s.cfg.h45SignExtend a b
          ready := false
          tfineValid := false } } .initFailure 6)
  | task (s : State) (d : List Byte) (hr : s.engine.ready = true) (hd : Delivers (answerAt s 0) 8 d) :
      Does .task s (State.answered { s.afterBus (ldrawTraffic s.cfg) with
        engine := convertedH (convertedP (convertedT s.cfg
          { s.engine with raw := unpackRaw d, tfineValid := false })) } .ok 0)
  | taskFails (s : State) (hr : s.engine.ready = true) (hf : FailsRead (answerAt s 0) 8) :
      Does .task s ((s.afterBus (ldrawTraffic s.cfg)).failed .busError 1)
  | taskNotReady (s : State) (hr : s.engine.ready = false) : Does .task s (s.failed .notReady 0)
  | gett (s : State) : Does .gett s (s.answered .ok s.engine.outT)
  | getp (s : State) : Does .getp s (s.answered .ok s.engine.outP)
  | geth (s : State) : Does .geth s (s.answered .ok s.engine.outH)
  | edge (m : LaneSet) (s : State) : Does (.edge m) s (handler (edgeBody m) s)
  | tick (l : Lane) (s : State) : Does (.tick l) s (s.afterHandler l (tickLane s.cfg (s.lane l)))
  | isact (l : Lane) (s : State) :
      Does (.isact l) s (s.answered .ok (BitVec.ofNat 32 (s.lane l).state.code))

/-- There are no other ways. -/
theorem exec_does {i : Instr} {s t : State} (h : exec i s = .next t) : Does i s t := by
  cases i with
  | convt => cases h; exact .convt s
  | convp =>
    cases hv : s.engine.tfineValid
    · have e : exec .convp s = .next (conclude (convpSteps s)) := rfl
      rw [convpSteps_of_stale hv] at e; cases e.symm.trans h; exact .convpStale s hv
    · have e : exec .convp s = .next (conclude (convpSteps s)) := rfl
      rw [convpSteps_of_valid hv] at e; cases e.symm.trans h; exact .convp s hv
  | convh =>
    cases hv : s.engine.tfineValid
    · have e : exec .convh s = .next (conclude (convhSteps s)) := rfl
      rw [convhSteps_of_stale hv] at e; cases e.symm.trans h; exact .convhStale s hv
    · have e : exec .convh s = .next (conclude (convhSteps s)) := rfl
      rw [convhSteps_of_valid hv] at e; cases e.symm.trans h; exact .convh s hv
  | ldcal =>
    have e : exec .ldcal s = .next (conclude (ldcalSteps s)) := rfl
    rcases ldcalSteps_cases s with ⟨a, b, ha, hb, hs⟩ | ⟨hf, hs⟩ | ⟨a, ha, hf, hs⟩ <;> rw [hs] at e <;>
      cases e.symm.trans h
    · exact .ldcal s a b ha hb
    · exact .ldcalFailsA s hf
    · exact .ldcalFailsB s a ha hf
  | ldraw =>
    have e : exec .ldraw s = .next (conclude (ldrawSteps s)) := rfl
    rcases ldrawSteps_cases s with ⟨d, hd, hs⟩ | ⟨hf, hs⟩ <;> rw [hs] at e <;> cases e.symm.trans h
    · exact .ldraw s d hd
    · exact .ldrawFails s hf
  | init =>
    have e : exec .init s = .next (conclude (initSteps s)) := rfl
    rcases initSteps_cases s with ⟨a, b, d, hack, ha, hb, hd, hs⟩ | ⟨k, hk, -, -, hs⟩ | ⟨-, -, hs⟩ |
      ⟨a, -, -, -, hs⟩ | ⟨a, b, -, ha, hb, -, hs⟩ <;> rw [hs] at e <;> cases e.symm.trans h
    · exact .init s a b d hack ha hb hd
    · exact .initFails s (k + 1) (k + 1) (by omega) (by omega) (by omega)
    · exact .initFails s 5 5 (by omega) (by omega) (by omega)
    · exact .initFails s 6 5 (by omega) (by omega) (by omega)
    · exact .initFailsLast s a b ha hb
  | task =>
    have e : exec .task s = .next (conclude (taskSteps s)) := rfl
    rcases taskSteps_cases s with ⟨d, hr, hd, hs⟩ | ⟨hr, hf, hs⟩ | ⟨hr, hs⟩ <;> rw [hs] at e <;>
      cases e.symm.trans h
    · exact .task s d hr hd
    · exact .taskFails s hr hf
    · exact .taskNotReady s hr
  | gett => cases h; exact .gett s
  | getp => cases h; exact .getp s
  | geth => cases h; exact .geth s
  | edge m => cases h; exact .edge m s
  | tick l =>
    have e : exec (.tick l) s = .next (handler (tickBody l) s) := rfl
    rw [handler_tickBody] at e; cases e.symm.trans h; exact .tick l s
  | isact l => cases h; exact .isact l s

/-- Everything a step can do: nothing, reset, answer a reserved word, or run one operation. -/
theorem step_cases {s t : State} (h : step s = .next t) :
    (s.env.inputs = [] ∧ t = s) ∨
    (∃ rest, s.env.inputs = .reset :: rest ∧
      t = applyReset { s with env := { s.env with inputs := rest } }) ∨
    (∃ w rest e, s.env.inputs = .word w :: rest ∧ decodeWord w = .error e ∧
      t = State.answered { s with env := { s.env with inputs := rest } } .illegal 0) ∨
    (∃ w rest i, s.env.inputs = .word w :: rest ∧ decodeWord w = .ok i ∧
      Does i { s with env := { s.env with inputs := rest } } t) := by
  cases hi : s.env.inputs with
  | nil => rw [step, nextInput_nil hi] at h; cases h; exact .inl ⟨rfl, rfl⟩
  | cons i rest =>
    rw [step, nextInput_cons hi] at h
    cases i with
    | reset => cases h; exact .inr (.inl ⟨rest, rfl, rfl⟩)
    | word w =>
      cases hd : decodeWord w with
      | ok i => simp only [hd] at h; exact .inr (.inr (.inr ⟨w, rest, i, rfl, hd, exec_does h⟩))
      | error e => simp only [hd] at h; cases h; exact .inr (.inr (.inl ⟨w, rest, e, rfl, hd, rfl⟩))

end Sys2Proof.Laws
end

