-- ==== Sys2Proof/Laws/PerInstr.lean ====
section
/-! SUPPORT. Per-instruction facts, one lemma per constructor of `Instr`. Family `TableRow`: the word an operation
encodes to matches its row of spec/opcode_table.json (match and mask as the table gives them) and is a legal
word of R63. -/

namespace Sys2Proof.Laws.TableRow

/-- The mask of an operation's row in spec/opcode_table.json. -/
def mask : Instr → Byte
  | .edge _  => 0xFC
  | .tick _  => 0xFE
  | .isact _ => 0xFE
  | _        => 0xFF

/-- The match value of an operation's row in spec/opcode_table.json. -/
def pattern : Instr → Byte
  | .convt   => 0x10
  | .convp   => 0x20
  | .convh   => 0x30
  | .ldcal   => 0x40
  | .ldraw   => 0x50
  | .init    => 0x60
  | .task    => 0x70
  | .gett    => 0x80
  | .getp    => 0x90
  | .geth    => 0xA0
  | .edge _  => 0xB0
  | .tick _  => 0xC0
  | .isact _ => 0xD0

/-- The word matches its row and is legal. -/
def Statement (i : Instr) : Prop := encode i &&& mask i = pattern i ∧ EventWord.wf (encode i) = true

theorem convt : Statement .convt := by unfold Statement; decide
theorem convp : Statement .convp := by unfold Statement; decide
theorem convh : Statement .convh := by unfold Statement; decide
theorem ldcal : Statement .ldcal := by unfold Statement; decide
theorem ldraw : Statement .ldraw := by unfold Statement; decide
theorem init : Statement .init := by unfold Statement; decide
theorem task : Statement .task := by unfold Statement; decide
theorem gett : Statement .gett := by unfold Statement; decide
theorem getp : Statement .getp := by unfold Statement; decide
theorem geth : Statement .geth := by unfold Statement; decide

theorem edge (m : LaneSet) : Statement (.edge m) := by
  rcases m with ⟨_ | _, _ | _⟩ <;> (unfold Statement; decide)

theorem tick (l : Lane) : Statement (.tick l) := by cases l <;> (unfold Statement; decide)

theorem isact (l : Lane) : Statement (.isact l) := by cases l <;> (unfold Statement; decide)

end Sys2Proof.Laws.TableRow
end

