-- ==== Sys2Proof/Tests/Slice0.lean ====
section
/-! SUPPORT. The model's own tests. Expected values are those of spec/95_test_vectors.md, by the vector's id, or are
written out from the encodings of R61. The witnesses at the end show, for each statement with hypotheses, a
concrete state and operands that meet them, clause by clause. -/

namespace Sys2Proof.Tests

open Sys2Proof.Machine

/-! ### Helpers -/

/-- The parameters of the vectors: thresholds 3 and 2, no trim, the register addresses of R42. -/
def cfg : Config where
  minLaneFullTicks := 3
  minLaneEmptyTicks := 2
  tempOffset := 0
  devAddr := 0x76
  regCalA := 0x88
  regCalB := 0xE1
  regData := 0xF7
  regCtrlHum := 0xF2
  regConfig := 0xF5
  regCtrlMeas := 0xF4
  cfgHum := 1
  cfgConfig := 2
  cfgMeas := 3
  h45SignExtend := true

/-- The calibration EX of spec/95. -/
def exCal : Calibration where
  digT1 := 27504
  digT2 := 26435
  digT3 := BitVec.ofInt 16 (-1000)
  digP1 := 36477
  digP2 := BitVec.ofInt 16 (-10685)
  digP3 := 3024
  digP4 := 2855
  digP5 := 140
  digP6 := BitVec.ofInt 16 (-7)
  digP7 := 15500
  digP8 := BitVec.ofInt 16 (-14600)
  digP9 := 6000
  digH1 := 75
  digH2 := 363
  digH3 := 0
  digH4 := 313
  digH5 := 50
  digH6 := 30

/-- Block A of vector U1, block B of vector U4, the bursts of vectors U9 and U13. -/
def blockA : List Byte :=
  [0x70, 0x6B, 0x43, 0x67, 0x18, 0xFC, 0x7D, 0x8E, 0x43, 0xD6, 0xD0, 0x0B, 0x27] ++
  [0x0B, 0x8C, 0x00, 0xF9, 0xFF, 0x8C, 0x3C, 0xF8, 0xC6, 0x70, 0x17, 0x00, 0x4B]

def blockB : List Byte := [0x6B, 0x01, 0x00, 0x13, 0x29, 0x03, 0x1E]

def burst9 : List Byte := [0x65, 0x5A, 0xC0, 0x7E, 0xED, 0x00, 0x75, 0x30]

def burst13 : List Byte := [0x5F, 0x0A, 0x30, 0x81, 0xB2, 0xF0, 0x6D, 0x60]

/-- The seven answers of vector Q1. -/
def bootAnswers : List BusAnswer := [.ack, .ack, .ack, .ack, .bytes blockA, .bytes blockB, .bytes burst9]

/-- Reset with the given bus answers queued. -/
def resetWithBus (answers : List BusAnswer) : State :=
  { State.resetWith cfg with env := { Environment.start with busIn := answers } }

/-- EX loaded and ready, counts of U9, `t_fine` of the worked example, valid. -/
def warm : State :=
  { State.resetWith cfg with
    engine := { Engine.reset with
      cal := exCal
      raw := { adcP := 415148, adcT := 519888, adcH := 30000 }
      tFine := 128422
      outT := 2508
      ready := true
      tfineValid := true } }

/-- `warm` with bus answers queued. -/
def warmWithBus (answers : List BusAnswer) : State :=
  { warm with env := { Environment.start with busIn := answers } }

/-- Reset with the two lanes as given. -/
def lanesState (x y : LaneState) : State := { State.resetWith cfg with lanes := { lane0 := x, lane1 := y } }

/-- A lane. -/
def lane (o : Occupancy) (armed : Bool) (n : Nat) : LaneState :=
  { state := o, armed := armed, counter := BitVec.ofNat 16 n }

/-- What a view of the next state is, where there is one. -/
def view {α : Type} (f : State → α) (o : Host.Outcome State Fault Refusal) : Option α :=
  match o with
  | .next t    => some (f t)
  | .fault _   => none
  | .refused _ => none

/-- The last response. -/
def answer (t : State) : Option (Status × Nat) := t.out.responses.head?.map fun r => (r.status, r.value.toNat)

/-! ### Well-formedness: an ill-formed value for each check -/

theorem test_wf_op_reserved :
    (EventWord.opAssigned 0x0F || EventWord.opAssigned 0xE0 || EventWord.opAssigned 0xF0) = false := by decide
theorem test_wf_zero_field : (EventWord.zeroClear 0x14 || EventWord.zeroClear 0xB8) = false := by decide
theorem test_wf_arg : (EventWord.argClear 0x11 || EventWord.argClear 0xA3) = false := by decide
theorem test_wf_lane_bit : (EventWord.laneBitClear 0xC2 || EventWord.laneBitClear 0xD3) = false := by decide
theorem test_wf_word : (EventWord.wf 0xFF || EventWord.wf 0x14 || EventWord.wf 0x72 || EventWord.wf 0xD2) = false := by
  decide
theorem test_wf_legal_word : (EventWord.wf 0xB3 && EventWord.wf 0xD1 && EventWord.wf 0x10) = true := by decide
theorem test_wf_full_ticks : Config.wf { cfg with minLaneFullTicks := 0 } = false := by decide
theorem test_wf_empty_ticks : Config.wf { cfg with minLaneEmptyTicks := 0 } = false := by decide
theorem test_wf_cfg : Config.wf cfg = true := by decide
theorem test_legal_inputs :
    legalInputs { warm with env := { warm.env with inputs := [.word 0xB1, .reset, .word 0xFF] } } = false := by decide

/-! ### Decoding: words from the encodings of R61 (vectors W1 to W7) -/

theorem test_decode_convt : decodeWord 0b00010000#8 = .ok .convt := by decide
theorem test_decode_convp : decodeWord 0b00100000#8 = .ok .convp := by decide
theorem test_decode_convh : decodeWord 0b00110000#8 = .ok .convh := by decide
theorem test_decode_ldcal : decodeWord 0b01000000#8 = .ok .ldcal := by decide
theorem test_decode_ldraw : decodeWord 0b01010000#8 = .ok .ldraw := by decide
theorem test_decode_init : decodeWord 0b01100000#8 = .ok .init := by decide
theorem test_decode_task : decodeWord 0b01110000#8 = .ok .task := by decide
theorem test_decode_gett : decodeWord 0b10000000#8 = .ok .gett := by decide
theorem test_decode_getp : decodeWord 0b10010000#8 = .ok .getp := by decide
theorem test_decode_geth : decodeWord 0b10100000#8 = .ok .geth := by decide
theorem test_decode_edge : decodeWord 0b10110001#8 = .ok (.edge { lane0 := true, lane1 := false }) := by decide
theorem test_decode_tick : decodeWord 0b11000001#8 = .ok (.tick .l1) := by decide
theorem test_decode_isact : decodeWord 0b11010001#8 = .ok (.isact .l1) := by decide
theorem test_decode_reserved_op : decodeWord 0xE0 = .error .opReserved := by decide
theorem test_decode_zero_field : decodeWord 0xB4 = .error .zeroFieldSet := by decide
theorem test_decode_arg : decodeWord 0x72 = .error .argSet := by decide
theorem test_decode_lane_bit : decodeWord 0xC3 = .error .laneBitSet := by decide
theorem test_table_word : decodeTableWord 8 0xB2 = some (.edge { lane0 := false, lane1 := true }) := by decide

theorem test_encode : [encode .convp, encode .geth, encode (.edge { lane0 := false, lane1 := true }), encode (.tick .l1)] =
    [0x20, 0xA0, 0xB2, 0xC1] := by decide

/-- R70: the lines `EDGE` of both lanes (characters 123, 48, 44, 49, 125 after the mnemonic) and `TICK 1`. -/
theorem test_text : ((Instr.edge { lane0 := true, lane1 := true }).text.toList.map Char.toNat, (Instr.tick .l1).text) =
    ([69, 68, 71, 69, 32, 123, 48, 44, 49, 125], "TICK 1") := by decide

/-! ### Arithmetic (R8) -/

theorem test_asr_floors : (asr (-1) 8, asr (-257) 8) = (-1, -2) := by decide
theorem test_sdiv_truncates :
    (sdiv64 (-7) 2, sdiv64 7 (-2), sdiv64 (-9223372036854775808) (-1)) = (-3, -3, -9223372036854775808) := by decide
theorem test_square_wraps : mul32 65535 65535 = -131071 := by decide

/-! ### Conversions -/

/-- Vectors T1 and T12. -/
theorem test_convt_worked_example :
    view (fun t => (t.engine.tFine, t.engine.outT, answer t)) (exec .convt { warm with engine :=
      { warm.engine with tFine := 0, outT := 0, tfineValid := false } }) = some (128422, 2508, some (.ok, 2508)) := by
  decide

/-- Vector T11: three products wrap. -/
theorem test_compT_wraps : compT 1048575 0 32767 32767 = (-3, -144) := by decide

/-- Vectors P1 and P11. -/
theorem test_convp_worked_example :
    view (fun t => (t.engine.outP, answer t)) (exec .convp warm) = some (25767233, some (.ok, 25767233)) := by decide

/-- Vector P7: negative denominator, the quotient rounds toward zero. -/
theorem test_compP_negative_den :
    compP 415148 1128000 36477 (-32768) (-32768) 2855 140 (-7) 15500 (-14600) 6000 = 4267038402 := by decide

/-- Vector H1. -/
theorem test_convh_worked_example :
    view (fun t => (t.engine.outH, answer t)) (exec .convh warm) = some (56472, some (.ok, 56472)) := by decide

/-- Vector H11: a subtraction wraps; the result is clamped above. -/
theorem test_compH_wraps_and_clamps : compH 20000 128422 75 363 0 (-2048) 50 30 = 102400 := by decide

/-- Vector P12. -/
theorem test_convp_stale :
    view (fun t => (t.engine.outP, answer t, t.out.diag.length))
      (exec .convp { warm with engine := { warm.engine with outP := 7, tfineValid := false } }) =
    some (7, some (.staleTfine, 0), 1) := by decide

/-! ### Loads -/

/-- Vectors U1 and U4. -/
theorem test_ldcal_ex :
    view (fun t => (t.engine.cal, t.engine.tfineValid)) (exec .ldcal (resetWithBus [.bytes blockA, .bytes blockB])) =
    some (exCal, false) := by decide

/-- Vector U18: block B fails, nothing is written. -/
theorem test_ldcal_fails_second :
    view (fun t => (decide (t.engine = warm.engine), answer t)) (exec .ldcal (warmWithBus [.bytes blockA, .fail])) =
    some (true, some (.busError, 2)) := by decide

/-- Vectors U6 and U7: sign extension of the nibble pair, and its absence. -/
theorem test_nibble_pair :
    let e : List Byte := [0xFF, 0xFF, 0x80, 0x80, 0x7F, 0x80, 0xFF]
    ((unpackCalibration true blockA e).digH4.toInt, (unpackCalibration true blockA e).digH5.toInt,
      (unpackCalibration false blockA e).digH4.toInt, (unpackCalibration false blockA e).digH5.toInt) =
    (-2033, -2041, 2063, 2055) := by decide

/-- Vector U12. -/
theorem test_ldraw_byte_positions :
    view (fun t => t.engine.raw) (exec .ldraw (resetWithBus [.bytes [0x12, 0x34, 0x56, 0x78, 0x9A, 0xBC, 0xDE, 0xF0]])) =
    some { adcP := 74565, adcT := 493995, adcH := 57072 } := by decide

/-- Vector U15, with an answer of the wrong length in place of Fail (log entry 5). -/
theorem test_ldraw_short_answer :
    view (fun t => (t.engine.raw, t.engine.tfineValid, answer t)) (exec .ldraw (warmWithBus [.bytes [1, 2, 3]])) =
    some (warm.engine.raw, true, some (.busError, 1)) := by decide

/-! ### Sequencing -/

/-- Vector Q1. -/
theorem test_init_completes :
    view (fun t => (t.engine.ready, t.engine.cal, t.engine.raw.adcP, answer t)) (exec .init (resetWithBus bootAnswers)) =
    some (true, exCal, 415148, some (.ok, 0)) := by decide

/-- Vector Q2g: the burst fails; step 5 keeps its effect. -/
theorem test_init_fails_last :
    view (fun t => (t.engine.ready, t.engine.cal, answer t))
      (exec .init (resetWithBus [.ack, .ack, .ack, .ack, .bytes blockA, .bytes blockB, .fail])) =
    some (false, exCal, some (.initFailure, 6)) := by decide

/-- Vector Q6. -/
theorem test_task_second_sample :
    view (fun t => (t.engine.tFine, t.engine.outT, t.engine.outP, t.engine.outH)) (exec .task (warmWithBus [.bytes burst13])) =
    some (146625, 2864, 27058065, 45064) := by decide

/-- Vector Q3. -/
theorem test_task_not_ready :
    view (fun t => (answer t, t.out.bus)) (exec .task (State.resetWith cfg)) = some (some (.notReady, 0), []) := by decide

/-- Vector S1. -/
theorem test_gett : view answer (exec .gett { warm with engine := { warm.engine with outT := 5382 } }) =
    some (some (.ok, 5382)) := by decide

/-- Vector Q9. -/
theorem test_getp : view answer (exec .getp { warm with engine := { warm.engine with outP := 25767233 } }) =
    some (some (.ok, 25767233)) := by decide

/-- Vector S3: the integer-pascal view. -/
theorem test_pascals : ({ warm.engine with outP := 25767233 } : Engine).pascals = 100653 := by decide

/-- Vector S2. -/
theorem test_geth : view answer (exec .geth { warm with engine := { warm.engine with outH := 42313 } }) =
    some (some (.ok, 42313)) := by decide

/-! ### Lanes -/

/-- Vector L8: EDGE writes counter and armed, never the state, and not the other lane. -/
theorem test_edge : view (fun t => t.lanes)
    (exec (.edge { lane0 := true, lane1 := false }) (lanesState (lane .full true 1) (lane .empty true 1))) =
    some { lane0 := lane .full true 0, lane1 := lane .empty true 1 } := by decide

/-- Vector L1, fifth line: the threshold is reached. -/
theorem test_tick_commits : view (fun t => t.lanes) (exec (.tick .l0) (lanesState (lane .empty true 2) (lane .empty true 1))) =
    some { lane0 := lane .full false 3, lane1 := lane .empty true 1 } := by decide

/-- Vector L9: a disarmed lane does not count. -/
theorem test_tick_disarmed : view (fun t => t.lanes) (exec (.tick .l1) (lanesState (lane .full true 1) (lane .empty false 2))) =
    some { lane0 := lane .full true 1, lane1 := lane .empty false 2 } := by decide

/-- PRG2, step 7. -/
theorem test_isact : view answer (exec (.isact .l0) (lanesState (lane .full false 3) (lane .empty true 0))) =
    some (some (.ok, 1)) := by decide

/-! ### Steps -/

/-- PRG4: a reserved word changes nothing and is answered ILLEGAL, without a diagnostic event. -/
theorem test_step_reserved : view (fun t => (decide (t.engine = warm.engine), decide (t.lanes = warm.lanes),
      answer t, t.out.diag.length))
    (step (warm.withFetchWord 8 0xFF)) = some (true, true, some (.illegal, 0), 0) := by decide

/-- The word placed is the one run. -/
theorem test_step_edge : view (fun t => (t.lane .l1, t.env.inputs)) (step ((State.resetWith cfg).withFetchWord 8 0xB2)) =
    some (lane .empty true 0, []) := by decide

/-! ### Witnesses: every statement's hypotheses can be met -/

/-- `warm` with stimuli queued. -/
def queued (w : Byte) : State := { warm with env := { warm.env with inputs := [.word w] } }

theorem witness_ReservedWordsAnsweredIllegal :
    [0x0F, 0xE0, 0xFF, 0x14, 0x11, 0xA1, 0xC2, 0xD3].all (fun n =>
      match decodeWord (BitVec.ofNat 8 n) with
      | .ok _    => false
      | .error _ => true) = true ∧
    (queued 0xFF).env.inputs = .word 0xFF :: [] ∧ decodeWord 0xFF = .error .zeroFieldSet := by decide

theorem witness_StepRunsDecodedOperation :
    (queued 0xD1).env.inputs = .word 0xD1 :: [] ∧ decodeWord 0xD1 = .ok (.isact .l1) := by decide

theorem witness_ResetInputAndIdle :
    ({ warm with env := { warm.env with inputs := [.reset] } } : State).env.inputs = .reset :: [] ∧
    warm.env.inputs = [] := by decide

theorem witness_BehaviourRightAfterReset : ∃ u, exec (.edge (LaneSet.single .l1)) (State.resetWith cfg) = .next u :=
  ⟨_, rfl⟩

theorem witness_StepConsumesOneStimulus : ∃ t, step (queued 0x50) = .next t := ⟨_, rfl⟩

theorem witness_ConvpComputesPressure_ConvhComputesHumidity : warm.engine.tfineValid = true := by decide

theorem witness_StaleFineTemperatureReported_clause1 : (State.resetWith cfg).engine.tfineValid = false := by decide

theorem witness_StaleFineTemperatureReported_clause2 : ∃ t, exec .convh (State.resetWith cfg) = .next t ∧
    t.out.responses.head? = some { status := .staleTfine, value := 0 } := ⟨_, rfl, by decide⟩

/-- Two states that differ outside what CONVT reads. -/
theorem witness_ConvtDeterministic : (∃ t, exec .convt warm = .next t) ∧ (∃ t, exec .convt (queued 0x10) = .next t) ∧
    warm.engine.raw.adcT = (queued 0x10).engine.raw.adcT ∧ warm.engine.cal.digT1 = (queued 0x10).engine.cal.digT1 ∧
    warm.engine.cal.digT2 = (queued 0x10).engine.cal.digT2 ∧ warm.engine.cal.digT3 = (queued 0x10).engine.cal.digT3 ∧
    warm.cfg.tempOffset = (queued 0x10).cfg.tempOffset := ⟨⟨_, rfl⟩, ⟨_, rfl⟩, by decide⟩

/-- Boundary values of the three clauses; vectors T9 and T10 are corners of the box. -/
theorem witness_TemperatureNoWrapBox :
    ((0 : Int) ≤ 1048575 ∧ (1048575 : Int) ≤ 1048575 ∧ (0 : Int) ≤ 65535 ∧ (65535 : Int) ≤ 65535) ∧
    mul32 46340 46340 = 46340 * 46340 ∧ mul32 46341 46341 ≠ 46341 * 46341 ∧ mul32 (-65535) (-65535) ≠ 65535 * 65535 ∧
    compT 1048575 27000 27000 5000 = (22006, 1126708) ∧ compT 0 30000 27000 (-5000) = (-16759, -858072) := by decide

theorem witness_TemperatureIgnoresLowBits :
    compT (8 * 64986 + 7) 27504 26435 (-1000) = (2508, 128422) ∧
    compTVar2 (16 * 32493 + 15) 27504 (-1000) = -371 := by decide

/-- Clause 2 at both sides of each bound of its iff, and at a sum on the edge of s64; clause 3 by either of its two
grounds (vectors P2 and P9). -/
theorem witness_PressureZeroGuard :
    (140737488355328 + compPV1b 128000 0 0) * 0 = 0 ∧ compPDen 128000 0 0 0 = 0 ∧ compPDen 128000 1 0 0 = 16384 ∧
    compPV1b 1176576 (-32768) 0 = -140737488355328 ∧ compPDen 1176576 36477 (-32768) 0 = 0 ∧
    compPDen 1176576 36477 (-32767) (-1) = 0 ∧ warm.engine.tfineValid = true ∧
    ({ exCal with digP1 := 0 } : Calibration).digP1 = 0 ∧
    Reference.pressureDen 1176576 { exCal with digP2 := BitVec.ofInt 16 (-32768), digP3 := 0 } = 0 := by decide

theorem witness_PressureTermsDoNotWrap :
    (-1048576 : Int) < -920575 - 128000 ∧ (1176575 : Int) - 128000 < 1048576 ∧
    compPV1b 1176575 (-32768) (-32768) = 1048575 * 1048575 * (-32768) / 256 + 1048575 * (-32768) * 4096 := by decide

theorem witness_HumidityOutputRange : ∃ t, exec .convh warm = .next t ∧ t.engine.outH ≠ warm.engine.outH :=
  ⟨_, rfl, by decide⟩

theorem witness_LdcalLoadsCalibration :
    Delivers (answerAt (resetWithBus [.bytes blockA, .bytes blockB]) 0) 26 blockA ∧
    Delivers (answerAt (resetWithBus [.bytes blockA, .bytes blockB]) 1) 7 blockB := by unfold Delivers; decide

theorem failsRead_of_fail (n : Nat) : FailsRead .fail n := fun _ h => nomatch h.1

theorem witness_LdcalFailureWritesNothing_clause1 : FailsRead (answerAt (warmWithBus [.fail]) 0) 26 := failsRead_of_fail 26

theorem witness_LdcalFailureWritesNothing_clause2 :
    Delivers (answerAt (warmWithBus [.bytes blockA, .fail]) 0) 26 blockA ∧
    FailsRead (answerAt (warmWithBus [.bytes blockA, .fail]) 1) 7 :=
  ⟨by unfold Delivers; decide, failsRead_of_fail 7⟩

theorem witness_CalibrationWrittenAllOrNone : ∃ t, exec .init (resetWithBus bootAnswers) = .next t ∧
    t.engine.cal ≠ (resetWithBus bootAnswers).engine.cal := ⟨_, rfl, by decide⟩

theorem witness_LdrawLoadsSample : Delivers (answerAt (resetWithBus [.bytes burst9]) 0) 8 burst9 := by
  unfold Delivers; decide

theorem witness_LdrawFailureWritesNothing : FailsRead (answerAt (warmWithBus [.fail]) 0) 8 := failsRead_of_fail 8

theorem witness_InitCompletes :
    (∀ j, j < 4 → answerAt (resetWithBus bootAnswers) j = .ack) ∧
    Delivers (answerAt (resetWithBus bootAnswers) 4) 26 blockA ∧
    Delivers (answerAt (resetWithBus bootAnswers) 5) 7 blockB ∧
    Delivers (answerAt (resetWithBus bootAnswers) 6) 8 burst9 := by unfold Delivers; decide

/-- Clause 1 at both ends of its range: the ping fails, and the third write fails. -/
theorem witness_InitFailureReportsFirstStep_config :
    answerAt (resetWithBus [.fail]) 0 ≠ .ack ∧
    (∀ j, j < 3 → answerAt (resetWithBus [.ack, .ack, .ack, .fail]) j = .ack) ∧
    answerAt (resetWithBus [.ack, .ack, .ack, .fail]) 3 ≠ .ack := by decide

theorem witness_InitFailureReportsFirstStep_blockA :
    (∀ j, j < 4 → answerAt (resetWithBus [.ack, .ack, .ack, .ack, .fail]) j = .ack) ∧
    FailsRead (answerAt (resetWithBus [.ack, .ack, .ack, .ack, .fail]) 4) 26 :=
  ⟨by decide, failsRead_of_fail 26⟩

theorem witness_InitFailureReportsFirstStep_blockB :
    (∀ j, j < 4 → answerAt (resetWithBus [.ack, .ack, .ack, .ack, .bytes blockA, .fail]) j = .ack) ∧
    Delivers (answerAt (resetWithBus [.ack, .ack, .ack, .ack, .bytes blockA, .fail]) 4) 26 blockA ∧
    FailsRead (answerAt (resetWithBus [.ack, .ack, .ack, .ack, .bytes blockA, .fail]) 5) 7 :=
  ⟨by decide, by unfold Delivers; decide, failsRead_of_fail 7⟩

theorem witness_InitFailureReportsFirstStep_burst :
    let s := resetWithBus [.ack, .ack, .ack, .ack, .bytes blockA, .bytes blockB, .fail]
    (∀ j, j < 4 → answerAt s j = .ack) ∧ Delivers (answerAt s 4) 26 blockA ∧ Delivers (answerAt s 5) 7 blockB ∧
    FailsRead (answerAt s 6) 8 :=
  ⟨by decide, by unfold Delivers; decide, by unfold Delivers; decide, failsRead_of_fail 8⟩

theorem witness_TaskRunsOneCycle :
    (warmWithBus [.bytes burst13]).engine.ready = true ∧ Delivers (answerAt (warmWithBus [.bytes burst13]) 0) 8 burst13 := by
  unfold Delivers; decide

theorem witness_TaskNotReadyDoesNothing : (State.resetWith cfg).engine.ready = false ∧
    ∃ t, exec .task (State.resetWith cfg) = .next t ∧ t.out.responses ≠ (State.resetWith cfg).out.responses ∧
      t.out.responses.head? = some { status := .notReady, value := 0 } :=
  ⟨by decide, _, rfl, by decide, by decide⟩

theorem witness_FailedCycleKeepsReadings :
    (warmWithBus [.fail]).engine.ready = true ∧ FailsRead (answerAt (warmWithBus [.fail]) 0) 8 :=
  ⟨by decide, failsRead_of_fail 8⟩

theorem witness_EdgeOrderImmaterial : warm.ie = true := by decide

/-- One lane for each of the five clauses of TICK, in order. -/
theorem witness_TickCountsAndCommits :
    (lane .empty false 2).armed = false ∧
    (lane .full true 1).counter + 1 = cfg.minLaneEmptyTicks ∧
    (lane .empty true 2).counter + 1 = cfg.minLaneFullTicks ∧
    (lane .full true 0).counter + 1 ≠ cfg.minLaneEmptyTicks ∧
    (lane .empty true 1).counter + 1 ≠ cfg.minLaneFullTicks := by decide

theorem witness_IsactReportsCommittedState :
    ((lanesState (lane .full false 3) (lane .empty true 0)).lane .l0).state = .full ∧
    ((lanesState (lane .full false 3) (lane .empty true 0)).lane .l1).state = .empty := by decide

/-- Lane 0 one tick short of its threshold. -/
def oneShort : State := lanesState (lane .empty true 2) (lane .full true 1)

theorem witness_StateChangesOnlyInArmedTick : ∃ t, exec (.tick .l0) oneShort = .next t ∧
    (t.lane .l0).state ≠ (oneShort.lane .l0).state := ⟨_, rfl, by decide⟩

theorem oneShort_debounceInv (inputs : List Input) :
    DebounceInv { oneShort with env := { oneShort.env with inputs := inputs } } :=
  ⟨(by decide : cfg.wf = true), fun l => match l with
    | .l0 => ⟨fun _ => (by decide : (2#16).toNat < (3#16).toNat), (by decide : (2#16).toNat ≤ max (2#16).toNat (3#16).toNat)⟩
    | .l1 => ⟨fun _ => (by decide : (1#16).toNat < (2#16).toNat), (by decide : (1#16).toNat ≤ max (2#16).toNat (3#16).toNat)⟩⟩

theorem witness_DebounceInvariantKept :
    DebounceInv { oneShort with env := { oneShort.env with inputs := [.word 0xC0] } } ∧
    (∃ t, step { oneShort with env := { oneShort.env with inputs := [.word 0xC0] } } = .next t) ∧
    (∃ t, exec (.tick .l0) oneShort = .next t) ∧ (oneShort.lane .l0).armed = true :=
  ⟨oneShort_debounceInv _, ⟨_, rfl⟩, ⟨_, rfl⟩, by decide⟩

theorem witness_ResetMeetsDebounceInvariant : cfg.wf = true := by decide

/-- A trace with other operations and the other lane's edge between the ticks. -/
theorem witness_LaneChangesAtThreshold :
    cfg.wf = true ∧ (LaneSet.single .l0).mem .l0 = true ∧
    ∀ i ∈ [Instr.tick .l0, .edge (LaneSet.single .l1), .gett, .tick .l0, .tick .l0], i.isEdgeOf .l0 = false := by decide

theorem witness_LanesAreIndependent :
    (∀ i ∈ [Instr.tick .l0, .edge (LaneSet.single .l0), .gett], i.isEdgeOf .l1 = false ∧ i.isTickOf .l1 = false) ∧
    ∃ t, runAll [.tick .l0, .edge (LaneSet.single .l0), .gett] oneShort = .next t := ⟨by decide, _, rfl⟩

theorem witness_EngineAndHandlersCommute :
    Instr.task.isEngine = true ∧ (Instr.tick .l0).context ≠ .main ∧
    Instr.ldcal.isEngine = true ∧ (Instr.edge (LaneSet.single .l1)).context ≠ .main := by decide

theorem witness_BlocksShareNoState_BusTrafficBounded : ∃ t, exec .init (resetWithBus bootAnswers) = .next t := ⟨_, rfl⟩

theorem witness_WritesOnlyItsPieces : (∃ t, exec .convp warm = .next t) ∧ mayWrite .convp (.reg .outT) = false ∧
    mayWrite .gett .ready = false ∧ mayWrite (.edge (LaneSet.single .l0)) (.laneCounter .l1) = false :=
  ⟨⟨_, rfl⟩, by decide⟩

theorem witness_OneResponsePerMainOperation :
    (∃ t, exec .convp warm = .next t) ∧ Instr.convp.context = .main ∧
    (∃ t, exec (.tick .l0) warm = .next t) ∧ (Instr.tick .l0).context ≠ .main := ⟨⟨_, rfl⟩, by decide, ⟨_, rfl⟩, by decide⟩

theorem witness_StatusesAndInfoValues_ExceptionsLeaveTheEngine :
    ∃ t, exec .task (State.resetWith cfg) = .next t ∧
      t.out.responses = { status := .notReady, value := 0 } :: (State.resetWith cfg).out.responses ∧
      Status.notReady ≠ .ok := ⟨_, rfl, by decide, by decide⟩

/-- The last branch but one (INIT that fails at step 6), and a response of an operation that leaves both flags. -/
theorem witness_FlagsSetAndCleared :
    (∃ t, exec .init (resetWithBus [.ack, .ack, .ack, .ack, .bytes blockA, .bytes blockB, .fail]) = .next t ∧
      t.out.responses = [{ status := .initFailure, value := 6 }]) ∧
    (∃ t, exec .gett warm = .next t ∧ t.out.responses = [{ status := .ok, value := 2508 }]) :=
  ⟨⟨_, rfl, by decide⟩, _, rfl, by decide⟩

theorem witness_ResetStateValues : ∃ s, s = State.reset ∨ ∃ c, s = State.resetWith c := ⟨_, .inl rfl⟩

theorem witness_RegisterRangesKept : RangeInv (queued 0x10) ∧ ∃ t, step (queued 0x10) = .next t :=
  ⟨⟨by decide, by decide, by decide, (by decide : -2048 ≤ (313#16).toInt ∧ (313#16).toInt ≤ 2047),
    (by decide : -2048 ≤ (50#16).toInt ∧ (50#16).toInt ≤ 2047), by decide, by decide⟩, _, rfl⟩

/-- A state in which `tfine_valid` is 1, so that the invariant says something. -/
theorem witness_CycleCouplingKept : (queued 0x20).engine.tfineValid = true ∧ CycleInv (queued 0x20) ∧
    ∃ t, step (queued 0x20) = .next t := ⟨by decide, fun _ => by decide, _, rfl⟩

end Sys2Proof.Tests
end

/-! PROOFS. The state (10_state.md): what a step keeps of it. The facts about the shared operations come first, then
each block of state is followed through `Does`, and the obligations are settled from these. -/

namespace Sys2Proof.Proofs

open Sys2Proof.Machine Sys2Proof.Laws Relation

/-! ### The handlers as whole states -/

/-- The edge handler arms the lanes it names, restarts their timers and leaves `ie` at 1 (R136, R137). -/
theorem handler_edgeBody (m : LaneSet) (s : State) :
    handler (edgeBody m) s = { s with
      lanes := {
        lane0 := if m.mem .l0 then edgeLane (s.lane .l0) else s.lane .l0
        lane1 := if m.mem .l1 then edgeLane (s.lane .l1) else s.lane .l1 }
      ie := true
      out := { s.out with
        restarts0 := s.out.restarts0 + (m.mem .l0).toNat
        restarts1 := s.out.restarts1 + (m.mem .l1).toNat } } := by
  rcases m with ⟨_ | _, _ | _⟩ <;> rfl

@[simp] theorem handler_edgeBody_engine (m : LaneSet) (s : State) :
    (handler (edgeBody m) s).engine = s.engine := by rw [handler_edgeBody]
@[simp] theorem handler_edgeBody_ie (m : LaneSet) (s : State) : (handler (edgeBody m) s).ie = true := rfl
@[simp] theorem handler_edgeBody_cfg (m : LaneSet) (s : State) : (handler (edgeBody m) s).cfg = s.cfg := by
  rw [handler_edgeBody]
@[simp] theorem handler_edgeBody_env (m : LaneSet) (s : State) : (handler (edgeBody m) s).env = s.env := by
  rw [handler_edgeBody]
@[simp] theorem handler_edgeBody_responses (m : LaneSet) (s : State) :
    (handler (edgeBody m) s).out.responses = s.out.responses := by rw [handler_edgeBody]
@[simp] theorem handler_edgeBody_bus (m : LaneSet) (s : State) :
    (handler (edgeBody m) s).out.bus = s.out.bus := by rw [handler_edgeBody]
@[simp] theorem handler_edgeBody_diag (m : LaneSet) (s : State) :
    (handler (edgeBody m) s).out.diag = s.out.diag := by rw [handler_edgeBody]

@[simp] theorem afterHandler_engine (l : Lane) (y : LaneState) (s : State) :
    (s.afterHandler l y).engine = s.engine := by cases l <;> rfl
@[simp] theorem afterHandler_ie (l : Lane) (y : LaneState) (s : State) : (s.afterHandler l y).ie = true := by
  cases l <;> rfl
@[simp] theorem afterHandler_cfg (l : Lane) (y : LaneState) (s : State) : (s.afterHandler l y).cfg = s.cfg := by
  cases l <;> rfl
@[simp] theorem afterHandler_env (l : Lane) (y : LaneState) (s : State) : (s.afterHandler l y).env = s.env := by
  cases l <;> rfl
@[simp] theorem afterHandler_out (l : Lane) (y : LaneState) (s : State) : (s.afterHandler l y).out = s.out := by
  cases l <;> rfl

theorem lane_afterHandler_of_ne {l k : Lane} (h : l ≠ k) (y : LaneState) (s : State) :
    (s.afterHandler l y).lane k = s.lane k := by
  cases l <;> cases k
  · exact absurd rfl h
  · rfl
  · rfl
  · exact absurd rfl h

/-! ### What a step does outside the engine and the lanes -/

/-- An operation keeps the parameters, and touches its environment only by bus transactions. -/
theorem does_afterBus {i : Instr} {s t : State} (h : Does i s t) :
    t.cfg = s.cfg ∧ ∃ ts, t.env = (s.afterBus ts).env ∧ t.out.bus = (s.afterBus ts).out.bus := by
  cases h with
  | convt | convp | convpStale | convh | convhStale | taskNotReady | gett | getp | geth | isact =>
    exact ⟨rfl, [], rfl, rfl⟩
  | edge | tick => exact ⟨by simp, [], by simp, by simp⟩
  | ldcalFailsA => exact ⟨rfl, (ldcalTraffic s.cfg).take 1, rfl, rfl⟩
  | ldcal | ldcalFailsB => exact ⟨rfl, ldcalTraffic s.cfg, rfl, rfl⟩
  | ldraw | ldrawFails | task | taskFails => exact ⟨rfl, ldrawTraffic s.cfg, rfl, rfl⟩
  | init | initFailsLast => exact ⟨rfl, initTraffic s.cfg, rfl, rfl⟩
  | initFails _ n => exact ⟨rfl, (initTraffic s.cfg).take n, rfl, rfl⟩

theorem does_cfg {i : Instr} {s t : State} (h : Does i s t) : t.cfg = s.cfg := (does_afterBus h).1

/-- A step keeps the parameters, takes the head off the queue of stimuli, and otherwise touches its environment only
by bus transactions. -/
theorem step_afterBus {s t : State} (h : step s = .next t) :
    t.cfg = s.cfg ∧ t.env.inputs = s.env.inputs.tail ∧
      ∃ ts, t.env.busIn = (s.afterBus ts).env.busIn ∧ t.env.busCount = (s.afterBus ts).env.busCount ∧
        t.out.bus = (s.afterBus ts).out.bus := by
  rcases step_cases h with ⟨hi, rfl⟩ | ⟨rest, hi, rfl⟩ | ⟨w, rest, e, hi, -, rfl⟩ | ⟨w, rest, i, hi, -, hd⟩
  · exact ⟨rfl, by rw [hi]; rfl, [], rfl, rfl, rfl⟩
  · exact ⟨rfl, by rw [hi]; rfl, [], rfl, rfl, rfl⟩
  · exact ⟨rfl, by rw [hi]; rfl, [], rfl, rfl, rfl⟩
  · obtain ⟨hc, ts, he, hb⟩ := does_afterBus hd
    exact ⟨hc, by rw [he, hi]; rfl, ts, by rw [he]; rfl, by rw [he]; rfl, hb⟩

theorem step_cfg {s t : State} (h : step s = .next t) : t.cfg = s.cfg := (step_afterBus h).1

/-- Settles O9: the transactions made are those of `step_afterBus`, newest first. -/
theorem stepConsumesOneStimulus : Obligations.StepConsumesOneStimulus := by
  intro s t h
  obtain ⟨hcfg, hinputs, ts, hin, hcount, hbus⟩ := step_afterBus h
  exact ⟨hcfg, hinputs, ts.reverse, hbus, by rw [hin, List.length_reverse]; rfl,
    by rw [hcount, List.length_reverse]; rfl⟩

/-! ### The two blocks of R10 -/

theorem does_engineOp_keeps_lanes {i : Instr} {s t : State} (h : Does i s t) (hi : i.isEngine = true) :
    t.lanes = s.lanes ∧ t.ie = s.ie ∧ t.out.restarts0 = s.out.restarts0 ∧ t.out.restarts1 = s.out.restarts1 := by
  cases h with
  | edge | tick | isact => cases hi
  | _ => exact ⟨rfl, rfl, rfl, rfl⟩

theorem does_laneOp_keeps_engine {i : Instr} {s t : State} (h : Does i s t) (hi : i.isEngine = false) :
    t.engine = s.engine ∧ t.env = s.env ∧ t.out.bus = s.out.bus ∧ t.out.diag = s.out.diag := by
  cases h with
  | edge | tick => simp
  | isact => exact ⟨rfl, rfl, rfl, rfl⟩
  | _ => cases hi

theorem does_isact_keeps_lanes {l : Lane} {s t : State} (h : Does (.isact l) s t) :
    t.lanes = s.lanes ∧ t.ie = s.ie ∧ t.out.restarts0 = s.out.restarts0 ∧ t.out.restarts1 = s.out.restarts1 := by
  cases h; exact ⟨rfl, rfl, rfl, rfl⟩

/-- Settles O42, one frame lemma per clause. -/
theorem blocksShareNoState : Obligations.BlocksShareNoState := by
  intro i s t h
  have hd := exec_does h
  refine ⟨does_engineOp_keeps_lanes hd, does_laneOp_keeps_engine hd, ?_⟩
  rintro l rfl
  exact does_isact_keeps_lanes hd

/-- An operation leaves `ie` at 1 wherever it finds it at 1 (R18). -/
theorem does_ie {i : Instr} {s t : State} (h : Does i s t) (hs : s.ie = true) : t.ie = true := by
  cases h with
  | edge | tick => simp
  | _ => exact hs

theorem step_ie {s t : State} (h : step s = .next t) (hs : s.ie = true) : t.ie = true := by
  rcases step_cases h with ⟨-, rfl⟩ | ⟨rest, -, rfl⟩ | ⟨w, rest, e, -, -, rfl⟩ | ⟨w, rest, i, -, -, hd⟩
  · exact hs
  · rfl
  · exact hs
  · exact does_ie hd hs

/-! ### The engine as a chain of writes

INIT and TASK run the writes of the simpler operations one after the other (R120, R122), so an invariant of the
engine needs a proof for each write alone. -/

/-- One write of an engine operation. -/
inductive EngineWrite (c : Config) : Engine → Engine → Prop where
  | convertT (e : Engine) : EngineWrite c e (convertedT c e)
  | convertP (e : Engine) : EngineWrite c e (convertedP e)
  | convertH (e : Engine) : EngineWrite c e (convertedH e)
  | loadCal (e : Engine) (a b : List Byte) :
      EngineWrite c e { e with cal := unpackCalibration c.h45SignExtend a b, tfineValid := false }
  | loadRaw (e : Engine) (d : List Byte) : EngineWrite c e { e with raw := unpackRaw d, tfineValid := false }
  | setReady (e : Engine) (b : Bool) : EngineWrite c e { e with ready := b }

/-- The engine after an operation is the engine before it through a chain of writes. -/
theorem does_engineWrites {i : Instr} {s t : State} (h : Does i s t) :
    ReflTransGen (EngineWrite s.cfg) s.engine t.engine := by
  cases h with
  | convt => exact .single (.convertT _)
  | convp => exact .single (.convertP _)
  | convh => exact .single (.convertH _)
  | ldcal _ a b => exact .single (.loadCal _ a b)
  | ldraw _ d => exact .single (.loadRaw _ d)
  | init _ a b d =>
    exact ((ReflTransGen.single (.loadCal _ a b)).tail (.loadRaw _ d)).tail (.setReady _ true)
  | initFails => exact .single (.setReady _ false)
  | initFailsLast _ a b => exact (ReflTransGen.single (.loadCal _ a b)).tail (.setReady _ false)
  | task _ d =>
    exact (((ReflTransGen.single (.loadRaw _ d)).tail (.convertT _)).tail (.convertP _)).tail (.convertH _)
  | edge | tick => simpa using ReflTransGen.refl
  | _ => exact .refl

/-- A property of the engine that holds at reset and that every write keeps is kept by every step. -/
theorem step_keeps_engine {P : Engine → Prop} {s t : State} (hreset : P Engine.reset)
    (hwrite : ∀ e e', EngineWrite s.cfg e e' → P e → P e') (h : step s = .next t) (hs : P s.engine) :
    P t.engine := by
  rcases step_cases h with ⟨-, rfl⟩ | ⟨rest, -, rfl⟩ | ⟨w, rest, e, -, -, rfl⟩ | ⟨w, rest, i, -, -, hd⟩
  · exact hs
  · exact hreset
  · exact hs
  · have chain := does_engineWrites hd
    generalize t.engine = e at chain
    induction chain with
    | refl => exact hs
    | tail _ hw ih => exact hwrite _ _ hw ih

/-! ### The value ranges of the registers (R11 to R13, R103) -/

theorem byteVal_lt (bs : List Byte) (k : Nat) : byteVal bs k < 256 := (bs.getD k 0).isLt

theorem slice_lt (v hi lo : Nat) : slice v hi lo < 2 ^ (hi - lo + 1) := Nat.mod_lt _ (Nat.two_pow_pos _)

theorem count20_lt (d : List Byte) (k : Nat) : count20 d k < 1048576 := by
  have h₀ := byteVal_lt d k
  have h₁ := byteVal_lt d (k + 1)
  have h₂ : slice (byteVal d (k + 2)) 7 4 < 16 := slice_lt ..
  unfold count20; omega

theorem count16_lt (d : List Byte) (k : Nat) : count16 d k < 65536 := by
  have h₀ := byteVal_lt d k
  have h₁ := byteVal_lt d (k + 1)
  unfold count16; omega

theorem h4Pattern_lt (e : List Byte) : h4Pattern e < 4096 := by
  have h₀ := byteVal_lt e 3
  have h₁ : slice (byteVal e 4) 3 0 < 16 := slice_lt ..
  unfold h4Pattern; omega

theorem h5Pattern_lt (e : List Byte) : h5Pattern e < 4096 := by
  have h₀ := byteVal_lt e 5
  have h₁ : slice (byteVal e 4) 7 4 < 16 := slice_lt ..
  unfold h5Pattern; omega

theorem sext12_range {h : Nat} (hh : h < 4096) : -2048 ≤ sext 12 h ∧ sext 12 h ≤ 2047 := by
  unfold sext; norm_num; split <;> omega

/-- A 16-bit register holds a value in its range unchanged. -/
theorem toInt_ofInt16 {v : Int} (h₁ : -32768 ≤ v) (h₂ : v ≤ 32767) : (BitVec.ofInt 16 v).toInt = v := by
  rw [BitVec.toInt_ofInt]; exact Int.bmod_eq_of_le (by norm_num; omega) (by norm_num; omega)

/-- The range of a raw sample (R11, R13): 20, 20 and 16 bits. -/
structure RawRange (r : RawSample) : Prop where
  adcP : r.adcP.toNat < 1048576
  adcT : r.adcT.toNat < 1048576
  adcH : r.adcH.toNat < 65536

/-- The range of a paired-nibble coefficient (R11, R67): 12 bits, signed or unsigned. -/
def NibbleRange (signed : Bool) (h : Half) : Prop :=
  if signed then -2048 ≤ h.toInt ∧ h.toInt ≤ 2047 else 0 ≤ h.toInt ∧ h.toInt ≤ 4095

theorem nibbleRange_zero (signed : Bool) : NibbleRange signed 0 := by cases signed <;> simp [NibbleRange]

theorem pairedNibble_range (signed : Bool) {h : Nat} (hh : h < 4096) :
    NibbleRange signed (pairedNibble signed h) := by
  cases signed with
  | true =>
    obtain ⟨h₁, h₂⟩ := sext12_range hh
    have e : (pairedNibble true h).toInt = sext 12 h := toInt_ofInt16 (v := sext 12 h) (by omega) (by omega)
    simpa [NibbleRange, e] using ⟨h₁, h₂⟩
  | false =>
    have e : (pairedNibble false h).toInt = h := toInt_ofInt16 (v := h) (by omega) (by omega)
    simp [NibbleRange, e]; omega

theorem unpackRaw_range (d : List Byte) : RawRange (unpackRaw d) where
  adcP := (BitVec.toNat_ofNat .. ▸ Nat.mod_le ..).trans_lt (count20_lt d 0)
  adcT := (BitVec.toNat_ofNat .. ▸ Nat.mod_le ..).trans_lt (count20_lt d 3)
  adcH := (BitVec.toNat_ofNat .. ▸ Nat.mod_le ..).trans_lt (count16_lt d 6)

/-- The humidity lies in 0 .. 0x19000 for every input: the clamp comes before the shift (R101, R103). -/
theorem compH_range (adcH tf h1 h2 h3 h4 h5 h6 : Int) :
    0 ≤ compH adcH tf h1 h2 h3 h4 h5 h6 ∧ compH adcH tf h1 h2 h3 h4 h5 h6 ≤ 102400 := by
  simp only [compH, asr_eq_div]
  generalize compHCorrect _ _ = v
  obtain ⟨h₀, h₁⟩ := clampH_range v
  rw [u32_eq_self] <;> omega

/-- A value that fits 32 bits unsigned is what the register then holds. -/
theorem toNat_toWord {v : Int} (h₁ : 0 ≤ v) (h₂ : v < 4294967296) : ((toWord v).toNat : Int) = v := by
  rw [toWord, BitVec.toNat_ofInt, Int.emod_eq_of_lt h₁ (by norm_num; omega)]; omega

theorem convertedH_outH_le (e : Engine) : (convertedH e).outH.toNat ≤ 102400 := by
  have h : 0 ≤ humidityOf e ∧ humidityOf e ≤ 102400 := compH_range ..
  have e' : ((convertedH e).outH.toNat : Int) = humidityOf e := toNat_toWord h.1 (by omega)
  omega

/-- The part of `RangeInv` that speaks of the engine. -/
structure EngineRange (signed : Bool) (e : Engine) : Prop where
  raw : RawRange e.raw
  digH4 : NibbleRange signed e.cal.digH4
  digH5 : NibbleRange signed e.cal.digH5
  outH : e.outH.toNat ≤ 102400

theorem rangeInv_iff (s : State) : RangeInv s ↔ EngineRange s.cfg.h45SignExtend s.engine ∧ s.ie = true :=
  ⟨fun h => ⟨⟨⟨h.adcP, h.adcT, h.adcH⟩, h.digH4, h.digH5, h.outH⟩, h.ie⟩,
    fun ⟨h, hie⟩ => ⟨h.raw.adcP, h.raw.adcT, h.raw.adcH, h.digH4, h.digH5, h.outH, hie⟩⟩

theorem engineRange_reset (signed : Bool) : EngineRange signed Engine.reset :=
  ⟨⟨by decide, by decide, by decide⟩, nibbleRange_zero signed, nibbleRange_zero signed, by decide⟩

theorem engineWrite_range {c : Config} {e e' : Engine} (hw : EngineWrite c e e')
    (h : EngineRange c.h45SignExtend e) : EngineRange c.h45SignExtend e' := by
  cases hw with
  | convertT | convertP | setReady => exact ⟨h.raw, h.digH4, h.digH5, h.outH⟩
  | convertH => exact ⟨h.raw, h.digH4, h.digH5, convertedH_outH_le e⟩
  | loadCal a b =>
    exact ⟨h.raw, pairedNibble_range _ (h4Pattern_lt b), pairedNibble_range _ (h5Pattern_lt b), h.outH⟩
  | loadRaw d => exact ⟨unpackRaw_range d, h.digH4, h.digH5, h.outH⟩

/-- Settles O49: every write keeps the engine's ranges, and every operation leaves `ie` at 1. -/
theorem registerRangesKept : Obligations.RegisterRangesKept := by
  intro s t hs h
  rw [rangeInv_iff] at hs ⊢
  rw [step_cfg h]
  exact ⟨step_keeps_engine (engineRange_reset _) (fun _ _ => engineWrite_range) h hs.1, step_ie h hs.2⟩

/-! ### The coupling of one cycle (R14, R16) -/

/-- `CycleInv` as a property of the engine of a machine with parameters `c`. -/
def CycleCoupled (c : Config) (e : Engine) : Prop :=
  e.tfineValid = true →
    e.tFine = toWord (temperatureOf e).2 ∧ e.outT = toWord (sub32 (temperatureOf e).1 c.tempOffset.toInt)

theorem cycleInv_iff (s : State) : CycleInv s ↔ CycleCoupled s.cfg s.engine := Iff.rfl

theorem cycleCoupled_of_stale {c : Config} {e : Engine} (h : e.tfineValid = false) : CycleCoupled c e :=
  fun hv => absurd (h.symm.trans hv) (by decide)

/-- CONVT establishes the coupling, a load clears the flag, and no other write reaches the registers it couples. -/
theorem engineWrite_coupled {c : Config} {e e' : Engine} (hw : EngineWrite c e e') (h : CycleCoupled c e) :
    CycleCoupled c e' := by
  cases hw with
  | convertT => exact fun _ => ⟨rfl, rfl⟩
  | loadCal | loadRaw => exact cycleCoupled_of_stale rfl
  | convertP | convertH | setReady => exact h

/-- Settles O50: every write keeps the coupling. -/
theorem cycleCouplingKept : Obligations.CycleCouplingKept := by
  intro s t hs h
  rw [cycleInv_iff] at hs ⊢
  rw [step_cfg h]
  exact step_keeps_engine (cycleCoupled_of_stale rfl) (fun _ _ => engineWrite_coupled) h hs

/-! ### The flags (R16) -/

/-- INIT that fails before its last step reports a number other than 6. -/
theorem ofNat_ne_six {n : Nat} (h : n ≤ 5) : BitVec.ofNat 32 n ≠ 6 := by
  interval_cases n <;> decide

/-- Settles O46: the response tells which way the operation ended. CONVT and a whole TASK set `tfine_valid`, a load
clears it, and every other ending keeps it. -/
theorem flagsSetAndCleared : Obligations.FlagsSetAndCleared := by
  intro i s t r h hr
  cases exec_does h with
  | edge | tick => simp at hr
  | initFails _ n step hn h₁ h₂ =>
    obtain rfl := (List.cons.inj hr).1
    simpa [initMade] using fun _ => ofNat_ne_six h₂
  | convt | task =>
    obtain rfl := (List.cons.inj hr).1
    simp [convertedT, convertedP, convertedH]
  | ldcal | ldraw | init | initFailsLast =>
    obtain rfl := (List.cons.inj hr).1
    simp
  | _ =>
    obtain rfl := (List.cons.inj hr).1
    simp [convertedP, convertedH]

/-! ### The cells of the read and write table (R23) -/

theorem x_convertedT (c : Config) (e : Engine) {r : Reg} (h₁ : r ≠ .tFine) (h₂ : r ≠ .outT) :
    (convertedT c e).x r = e.x r := by
  cases r with
  | tFine => exact absurd rfl h₁
  | outT => exact absurd rfl h₂
  | _ => rfl

theorem x_convertedP (e : Engine) {r : Reg} (h : r ≠ .outP) : (convertedP e).x r = e.x r := by
  cases r with
  | outP => exact absurd rfl h
  | _ => rfl

theorem x_convertedH (e : Engine) {r : Reg} (h : r ≠ .outH) : (convertedH e).x r = e.x r := by
  cases r with
  | outH => exact absurd rfl h
  | _ => rfl

theorem x_withCal (e : Engine) (c : Calibration) {r : Reg} (h : r.isCalibration = false) :
    Engine.x { e with cal := c } r = e.x r := by
  cases r with
  | adcP | adcT | adcH | tFine | outT | outP | outH => rfl
  | _ => exact absurd h (by decide)

theorem x_withRaw (e : Engine) (d : RawSample) {r : Reg} (h : r.isRaw = false) :
    Engine.x { e with raw := d } r = e.x r := by
  cases r with
  | adcP | adcT | adcH => exact absurd h (by decide)
  | _ => rfl

theorem x_congr_cal {e e' : Engine} {r : Reg} (h : r.isCalibration = true) (he : e'.cal = e.cal) :
    e'.x r = e.x r := by
  cases r with
  | adcP | adcT | adcH | tFine | outT | outP | outH => exact absurd h (by decide)
  | _ => simp only [Engine.x, he]

theorem does_x {i : Instr} {s t : State} (h : Does i s t) {r : Reg} (hr : mayWrite i (.reg r) = false) :
    t.engine.x r = s.engine.x r := by
  cases h with
  | convt =>
    obtain ⟨h₁, h₂⟩ : r ≠ .tFine ∧ r ≠ .outT := by simpa [mayWrite] using hr
    exact x_convertedT s.cfg s.engine h₁ h₂
  | convp => exact x_convertedP s.engine (by simpa [mayWrite] using hr)
  | convh => exact x_convertedH s.engine (by simpa [mayWrite] using hr)
  | ldcal => exact x_withCal s.engine _ hr
  | ldraw => exact x_withRaw s.engine _ hr
  | init _ a b d =>
    obtain ⟨hc, hd⟩ : r.isCalibration = false ∧ r.isRaw = false := by simpa [mayWrite] using hr
    exact (x_withRaw { s.engine with cal := unpackCalibration s.cfg.h45SignExtend a b } (unpackRaw d) hd).trans
      (x_withCal s.engine _ hc)
  | initFailsLast =>
    obtain ⟨hc, -⟩ : r.isCalibration = false ∧ r.isRaw = false := by simpa [mayWrite] using hr
    exact x_withCal s.engine _ hc
  | task => exact x_congr_cal (by simpa [mayWrite] using hr) rfl
  | edge | tick => simp
  | _ => rfl

theorem does_ready {i : Instr} {s t : State} (h : Does i s t) (hi : mayWrite i .ready = false) :
    t.engine.ready = s.engine.ready := by
  cases h with
  | init | initFails | initFailsLast => cases hi
  | edge | tick => simp
  | _ => rfl

theorem does_tfineValid {i : Instr} {s t : State} (h : Does i s t) (hi : mayWrite i .tfineValid = false) :
    t.engine.tfineValid = s.engine.tfineValid := by
  cases h with
  | convt | ldcal | ldraw | init | initFailsLast | task => cases hi
  | edge | tick => simp
  | _ => rfl

theorem mayWrite_laneState (i : Instr) (l : Lane) : mayWrite i (.laneState l) = i.isTickOf l := by
  cases i <;> rfl

theorem mayWrite_laneArmed (i : Instr) (l : Lane) :
    mayWrite i (.laneArmed l) = (i.isEdgeOf l || i.isTickOf l) := by
  cases i <;> simp [mayWrite, Instr.isEdgeOf, Instr.isTickOf]

theorem mayWrite_laneCounter (i : Instr) (l : Lane) :
    mayWrite i (.laneCounter l) = (i.isEdgeOf l || i.isTickOf l) := by
  cases i <;> simp [mayWrite, Instr.isEdgeOf, Instr.isTickOf]

/-- Only an EDGE that names a lane and a TICK of it reach the lane (R142). -/
theorem does_lane {i : Instr} {s t : State} (h : Does i s t) {l : Lane} (he : i.isEdgeOf l = false)
    (ht : i.isTickOf l = false) : t.lane l = s.lane l := by
  cases h with
  | edge m => rw [lane_handler_edgeBody, if_neg (by simpa [Instr.isEdgeOf] using he)]
  | tick k => exact lane_afterHandler_of_ne (by simpa [Instr.isTickOf] using ht) _ _
  | _ => rfl

/-- EDGE never writes the committed state (R136). -/
theorem does_laneState {i : Instr} {s t : State} (h : Does i s t) {l : Lane} (ht : i.isTickOf l = false) :
    (t.lane l).state = (s.lane l).state := by
  by_cases he : i.isEdgeOf l = false
  · rw [does_lane h he ht]
  · cases h with
    | edge m => rw [lane_handler_edgeBody, if_pos (by simpa [Instr.isEdgeOf] using he)]; rfl
    | _ => exact absurd rfl he

theorem does_ie_kept {i : Instr} {s t : State} (h : Does i s t) (hi : mayWrite i .ie = false) : t.ie = s.ie := by
  cases h with
  | edge | tick => cases hi
  | _ => rfl

/-- Settles O43, piece by piece. -/
theorem writesOnlyItsPieces : Obligations.WritesOnlyItsPieces := by
  intro i s t h p hp
  have hd := exec_does h
  cases p with
  | reg r => exact does_x hd hp
  | ready => simp only [State.piece, does_ready hd hp]
  | tfineValid => simp only [State.piece, does_tfineValid hd hp]
  | laneState l =>
    rw [mayWrite_laneState] at hp
    simp only [State.piece, does_laneState hd hp]
  | laneArmed l =>
    obtain ⟨he, ht⟩ := Bool.or_eq_false_iff.1 (mayWrite_laneArmed i l ▸ hp)
    simp only [State.piece, does_lane hd he ht]
  | laneCounter l =>
    obtain ⟨he, ht⟩ := Bool.or_eq_false_iff.1 (mayWrite_laneCounter i l ▸ hp)
    simp only [State.piece, does_lane hd he ht]
  | ie => simp only [State.piece, does_ie_kept hd hp]

/-! ### Reset (R22) -/

theorem x_reset (r : Reg) : Engine.reset.x r = 0 := by cases r <;> rfl

/-- Settles O6. -/
theorem resetStateValues : Obligations.ResetStateValues := by
  intro s hs
  obtain ⟨c, rfl⟩ : ∃ c, s = State.resetWith c := hs.elim (fun h => ⟨_, h⟩) id
  refine ⟨x_reset, rfl, rfl, fun l => by cases l <;> rfl, rfl, rfl⟩

theorem resetWith_rangeInv (c : Config) : RangeInv (State.resetWith c) :=
  (rangeInv_iff _).2 ⟨engineRange_reset _, rfl⟩

theorem resetWith_cycleInv (c : Config) : CycleInv (State.resetWith c) := cycleCoupled_of_stale rfl

/-- Settles O51. -/
theorem resetMeetsEngineInvariants : Obligations.ResetMeetsEngineInvariants :=
  ⟨fun c => ⟨resetWith_rangeInv c, resetWith_cycleInv c⟩, resetWith_rangeInv _, resetWith_cycleInv _⟩

end Sys2Proof.Proofs

/-! PROOFS. The memory model (20_memory.md): a step is one atomic operation (R48), the bus traffic of an operation
(R41), and why an engine operation and a handler commute (R50). -/

namespace Sys2Proof.Proofs

open Sys2Proof.Machine Sys2Proof.Laws

/-! ### The step (R48, R60) -/

theorem decodeWord_encode (i : Instr) : decodeWord (encode i) = .ok i := by
  cases i with
  | edge m => rcases m with ⟨_ | _, _ | _⟩ <;> decide
  | tick l | isact l => cases l <;> decide
  | _ => decide

theorem tableByte_toNat (w : Byte) : tableByte 8 w.toNat = w := by simp [tableByte]

theorem step_of_decodeWord {s : State} {w : Byte} {rest : List Input} {i : Instr}
    (hs : s.env.inputs = .word w :: rest) (hw : decodeWord w = .ok i) :
    step s = exec i { s with env := { s.env with inputs := rest } } := by
  rw [step, nextInput_cons hs]
  simp only [hw]

/-- Settles O4: the placed word is the operation's own encoding, and taking it off again restores the state. -/
theorem stepRunsDecodedOperation : Obligations.StepRunsDecodedOperation := by
  refine ⟨fun s w rest i hs hw => step_of_decodeWord hs hw, fun s i => ?_⟩
  rw [State.withFetchWord, tableByte_toNat]
  exact step_of_decodeWord (rest := s.env.inputs) rfl (decodeWord_encode i)

/-! ### The bus traffic (R41, R52) -/

theorem ldcalTraffic_sublist_initTraffic (c : Config) : (ldcalTraffic c).Sublist (initTraffic c) :=
  (List.sublist_append_right _ _).trans (List.sublist_append_left _ _)

theorem ldrawTraffic_sublist_initTraffic (c : Config) : (ldrawTraffic c).Sublist (initTraffic c) :=
  List.sublist_append_right _ _

/-- Whatever way an operation ends, its transactions are some of those of a complete INIT, in INIT's order. -/
theorem does_bus_sublist_initTraffic {i : Instr} {s t : State} (h : Does i s t) :
    ∃ ts : List BusTransaction, ts.Sublist (initTraffic s.cfg) ∧ t.out.bus = ts.reverse ++ s.out.bus := by
  cases h with
  | ldcal | ldcalFailsB => exact ⟨_, ldcalTraffic_sublist_initTraffic _, rfl⟩
  | ldcalFailsA => exact ⟨_, (List.take_sublist 1 _).trans (ldcalTraffic_sublist_initTraffic _), rfl⟩
  | ldraw | ldrawFails | task | taskFails => exact ⟨_, ldrawTraffic_sublist_initTraffic _, rfl⟩
  | init | initFailsLast => exact ⟨_, .refl _, rfl⟩
  | initFails _ n => exact ⟨_, List.take_sublist n _, rfl⟩
  | edge | tick => exact ⟨[], List.nil_sublist _, by simp⟩
  | _ => exact ⟨[], List.nil_sublist _, rfl⟩

/-- Settles O48: a sublist of INIT's seven transactions has at most seven elements, all of them INIT's. -/
theorem busTrafficBounded : Obligations.BusTrafficBounded := by
  intro i s t h
  obtain ⟨ts, hsub, hbus⟩ := does_bus_sublist_initTraffic (exec_does h)
  refine ⟨ts.reverse, hbus, ?_, fun x hx => hsub.subset (List.mem_reverse.1 hx)⟩
  calc ts.reverse.length = ts.length := List.length_reverse
    _ ≤ (initTraffic s.cfg).length := hsub.length_le
    _ = 7 := rfl

/-! ### The detector's share of the state (R10, R50)

A handler reads the parameters and the detector's share, and replaces that share. An engine operation gives the same
result whatever that share holds, so the two commute. -/

/-- What the handlers write: the lanes, `ie` and the timer restarts. -/
structure Detector where
  lanes     : Lanes
  ie        : Bool
  restarts0 : Nat
  restarts1 : Nat

/-- The detector's share of a state. -/
def detectorOf (s : State) : Detector where
  lanes     := s.lanes
  ie        := s.ie
  restarts0 := s.out.restarts0
  restarts1 := s.out.restarts1

/-- The state with the detector's share replaced, and nothing else. -/
def withDetector (d : Detector) (s : State) : State :=
  { s with
    lanes := d.lanes
    ie := d.ie
    out := { s.out with restarts0 := d.restarts0, restarts1 := d.restarts1 } }

/-- What a handler makes of the detector's share (R136, R138). -/
def handled (c : Config) (d : Detector) : Instr → Detector
  | .edge m =>
    { lanes := {
        lane0 := if m.mem .l0 then edgeLane d.lanes.lane0 else d.lanes.lane0
        lane1 := if m.mem .l1 then edgeLane d.lanes.lane1 else d.lanes.lane1 }
      ie := true
      restarts0 := d.restarts0 + (m.mem .l0).toNat
      restarts1 := d.restarts1 + (m.mem .l1).toNat }
  | .tick l => { d with lanes := d.lanes.set l (tickLane c (d.lanes.get l)), ie := true }
  | _       => d

theorem exec_of_handler {j : Instr} (hj : j.context ≠ .main) (s : State) :
    exec j s = .next (withDetector (handled s.cfg (detectorOf s) j) s) := by
  cases j with
  | edge m => exact congrArg Host.Outcome.next (handler_edgeBody m s)
  | tick l => cases l <;> rfl
  | _ => exact absurd rfl hj

theorem detectorOf_of_engineOp {i : Instr} {s t : State} (h : Does i s t) (hi : i.isEngine = true) :
    detectorOf t = detectorOf s := by
  obtain ⟨hlanes, hie, h0, h1⟩ := does_engineOp_keeps_lanes h hi
  simp only [detectorOf, hlanes, hie, h0, h1]

/-! ### Steps that do not see the detector -/

/-- Replace the detector's share of the state an attempt has reached. -/
def attemptWithDetector {α : Type} (d : Detector) : Attempt α → Attempt α
  | .ok a s          => .ok a (withDetector d s)
  | .raised e info s => .raised e info (withDetector d s)

/-- A step that neither reads nor writes the detector's share: replacing it before the step or after is the same. -/
def IgnoresDetector {α : Type} (f : State → Attempt α) : Prop :=
  ∀ d s, f (withDetector d s) = attemptWithDetector d (f s)

theorem IgnoresDetector.andThen {α β : Type} {f : State → Attempt α} {k : α → State → Attempt β}
    (hf : IgnoresDetector f) (hk : ∀ a, IgnoresDetector (k a)) : IgnoresDetector fun s => (f s).andThen k := by
  intro d s
  simp only [hf d s]
  cases f s with
  | ok a s'          => exact hk a d s'
  | raised e info s' => rfl

theorem IgnoresDetector.reportAs {α : Type} {f : State → Attempt α} (hf : IgnoresDetector f) (e : Status)
    (info : Nat) : IgnoresDetector fun s => (f s).reportAs e info := by
  intro d s
  simp only [hf d s]
  cases f s <;> rfl

theorem ping_ignoresDetector (e : Status) (info : Nat) : IgnoresDetector (ping e info) := by
  intro d s
  by_cases h : answerAt s 0 = .ack
  · rw [ping_of_ack h, ping_of_ack (s := withDetector d s) h]; rfl
  · rw [ping_of_not_ack h, ping_of_not_ack (s := withDetector d s) h]; rfl

theorem memWrite_ignoresDetector (r b : Config → Byte) (e : Status) (info : Nat) :
    IgnoresDetector fun s => memWrite (r s.cfg) (b s.cfg) e info s := by
  intro d s
  beta_reduce
  by_cases h : answerAt s 0 = .ack
  · rw [memWrite_of_ack h, memWrite_of_ack (s := withDetector d s) h]; rfl
  · rw [memWrite_of_not_ack h, memWrite_of_not_ack (s := withDetector d s) h]; rfl

theorem memRead_ignoresDetector (r : Config → Byte) (n : Nat) (e : Status) (info : Nat) :
    IgnoresDetector fun s => memRead (r s.cfg) n e info s := by
  intro d s
  beta_reduce
  rcases delivers_or_failsRead (answerAt s 0) n with ⟨bs, h⟩ | h
  · rw [memRead_of_delivers h, memRead_of_delivers (s := withDetector d s) h]; rfl
  · rw [memRead_of_failsRead h, memRead_of_failsRead (s := withDetector d s) h]; rfl

theorem convtSteps_ignoresDetector : IgnoresDetector convtSteps := fun _ _ => rfl

theorem convpSteps_ignoresDetector : IgnoresDetector convpSteps := by
  intro d s
  cases h : s.engine.tfineValid
  · rw [convpSteps_of_stale h, convpSteps_of_stale (s := withDetector d s) h]; rfl
  · rw [convpSteps_of_valid h, convpSteps_of_valid (s := withDetector d s) h]; rfl

theorem convhSteps_ignoresDetector : IgnoresDetector convhSteps := by
  intro d s
  cases h : s.engine.tfineValid
  · rw [convhSteps_of_stale h, convhSteps_of_stale (s := withDetector d s) h]; rfl
  · rw [convhSteps_of_valid h, convhSteps_of_valid (s := withDetector d s) h]; rfl

theorem ldcalSteps_ignoresDetector : IgnoresDetector ldcalSteps :=
  (memRead_ignoresDetector Config.regCalA 26 .busError 1).andThen fun _ =>
  (memRead_ignoresDetector Config.regCalB 7 .busError 2).andThen fun _ _ _ => rfl

theorem ldrawSteps_ignoresDetector : IgnoresDetector ldrawSteps :=
  (memRead_ignoresDetector Config.regData 8 .busError 1).andThen fun _ _ _ => rfl

theorem initSteps_ignoresDetector : IgnoresDetector initSteps :=
  IgnoresDetector.andThen (fun d s => ping_ignoresDetector .initFailure 1 d (clearReady s)) fun _ =>
  (memWrite_ignoresDetector Config.regCtrlHum Config.cfgHum .initFailure 2).andThen fun _ =>
  (memWrite_ignoresDetector Config.regConfig Config.cfgConfig .initFailure 3).andThen fun _ =>
  (memWrite_ignoresDetector Config.regCtrlMeas Config.cfgMeas .initFailure 4).andThen fun _ =>
  (ldcalSteps_ignoresDetector.reportAs .initFailure 5).andThen fun _ =>
  (ldrawSteps_ignoresDetector.reportAs .initFailure 6).andThen fun _ _ _ => rfl

theorem taskSteps_ignoresDetector : IgnoresDetector taskSteps := by
  intro d s
  by_cases h : s.engine.ready = true
  · have cycle := (ldrawSteps_ignoresDetector.reportAs .busError 1).andThen fun _ =>
      convtSteps_ignoresDetector.andThen fun _ => convpSteps_ignoresDetector.andThen fun _ =>
      convhSteps_ignoresDetector.andThen fun _ => (fun _ _ => rfl : IgnoresDetector (Attempt.ok (0 : Word)))
    rw [taskSteps, taskSteps, if_pos h, if_pos (show (withDetector d s).engine.ready = true from h)]
    exact cycle d s
  · rw [taskSteps, taskSteps, if_neg h, if_neg (show ¬ (withDetector d s).engine.ready = true from h)]
    rfl

theorem conclude_attemptWithDetector (d : Detector) (x : Attempt Word) :
    conclude (attemptWithDetector d x) = withDetector d (conclude x) := by cases x <;> rfl

/-- An operation that concludes such steps does not see the detector's share either. -/
theorem exec_withDetector_of_steps {i : Instr} {f : State → Attempt Word}
    (he : ∀ s, exec i s = .next (conclude (f s))) (hf : IgnoresDetector f) (s : State) :
    ∃ t, exec i s = .next t ∧ ∀ d, exec i (withDetector d s) = .next (withDetector d t) :=
  ⟨_, he s, fun d => by rw [he, hf, conclude_attemptWithDetector]⟩

/-- An engine operation answers a next state, and neither reads nor writes the detector's share (R50). -/
theorem exec_engineOp_withDetector {i : Instr} (hi : i.isEngine = true) (s : State) :
    ∃ t, exec i s = .next t ∧ ∀ d, exec i (withDetector d s) = .next (withDetector d t) := by
  cases i with
  | convt => exact exec_withDetector_of_steps (fun _ => rfl) convtSteps_ignoresDetector s
  | convp => exact exec_withDetector_of_steps (fun _ => rfl) convpSteps_ignoresDetector s
  | convh => exact exec_withDetector_of_steps (fun _ => rfl) convhSteps_ignoresDetector s
  | ldcal => exact exec_withDetector_of_steps (fun _ => rfl) ldcalSteps_ignoresDetector s
  | ldraw => exact exec_withDetector_of_steps (fun _ => rfl) ldrawSteps_ignoresDetector s
  | init => exact exec_withDetector_of_steps (fun _ => rfl) initSteps_ignoresDetector s
  | task => exact exec_withDetector_of_steps (fun _ => rfl) taskSteps_ignoresDetector s
  | gett | getp | geth => exact ⟨_, rfl, fun _ => rfl⟩
  | edge | tick | isact => cases hi

theorem runAll_pair {i j : Instr} {s t u : State} (hi : exec i s = .next t) (hj : exec j t = .next u) :
    runAll [i, j] s = .next u := by
  simp only [runAll, hi, hj]

/-- Settles O41: in both orders the engine operation's result, its detector's share replaced by what the handler
makes of the share at the start. -/
theorem engineAndHandlersCommute : Obligations.EngineAndHandlersCommute := by
  intro i j s hi hj
  obtain ⟨t, ht, htd⟩ := exec_engineOp_withDetector hi s
  have hd := exec_does ht
  have engineFirst := exec_of_handler hj t
  rw [does_cfg hd, detectorOf_of_engineOp hd hi] at engineFirst
  exact (runAll_pair ht engineFirst).trans (runAll_pair (exec_of_handler hj s) (htd _)).symm

end Sys2Proof.Proofs

/-! PROOFS. The encoding (30_encoding.md): the decoder and the encoder are inverse (R61 to R63), the byte maps of the
two loads are concatenations of bits (R66 to R68), and a MAIN operation answers once (R64, R166). -/

namespace Sys2Proof.Proofs

open Sys2Proof.Machine Sys2Proof.Laws

/-! ### The operand field (R60, R62) -/

theorem laneSetField_laneSetOf (arg : BitVec 2) : laneSetField (laneSetOf arg) = arg := by
  revert arg; decide

theorem laneField_laneOf {arg : BitVec 2} (h : arg.getLsbD 1 = false) : laneField (laneOf (arg.getLsbD 0)) = arg := by
  revert arg; decide

theorem noOperand_eq_ok {arg : BitVec 2} {i j : Instr} (h : noOperand arg i = .ok j) : arg = 0 ∧ i = j := by
  unfold noOperand at h
  split at h
  · next ha => cases h; exact ⟨ha, rfl⟩
  · cases h

theorem noOperand_error_iff (arg : BitVec 2) (i : Instr) :
    (∃ e, noOperand arg i = .error e) ↔ arg.toNat ≠ 0 := by
  unfold noOperand
  split
  · next ha => simp [ha]
  · next ha => simpa using fun h => ha (BitVec.eq_of_toNat_eq h)

theorem laneOperand_eq_ok {arg : BitVec 2} {i : Lane → Instr} {j : Instr} (h : laneOperand arg i = .ok j) :
    ∃ l, i l = j ∧ laneField l = arg := by
  unfold laneOperand at h
  split at h
  · cases h
  · next hb => cases h; exact ⟨_, rfl, laneField_laneOf (by simpa using hb)⟩

theorem laneOperand_error_iff (arg : BitVec 2) (i : Lane → Instr) :
    (∃ e, laneOperand arg i = .error e) ↔ 2 ≤ arg.toNat := by
  have hbit : arg.getLsbD 1 = true ↔ 2 ≤ arg.toNat := by revert arg; decide
  rw [← hbit, laneOperand]
  split
  · next hb => exact ⟨fun _ => hb, fun _ => ⟨_, rfl⟩⟩
  · next hb => exact ⟨fun ⟨_, h⟩ => (nomatch h), fun h => absurd h hb⟩

/-! ### The decoder on its three fields (R61, R63) -/

/-- What decodes has w[3:2] = 0, and its other two fields are those of the operation's word. -/
theorem decodeFields_eq_ok {op : BitVec 4} {zero arg : BitVec 2} {i : Instr}
    (h : decodeFields op zero arg = .ok i) : zero = 0 ∧ encode i = eventWord op arg := by
  by_cases hz : zero = 0
  swap
  · rw [decodeFields, if_pos hz] at h; cases h
  refine ⟨hz, ?_⟩
  rw [decodeFields, if_neg (not_not.2 hz)] at h
  have hlit : op = BitVec.ofNat 4 op.toNat := by simp
  rw [hlit]
  split at h <;> rename_i hop
  case h_1 | h_2 | h_3 | h_4 | h_5 | h_6 | h_7 | h_8 | h_9 | h_10 =>
    obtain ⟨rfl, rfl⟩ := noOperand_eq_ok h
    rw [hop]; rfl
  case h_11 =>
    cases h
    rw [hop, encode, laneSetField_laneSetOf]; rfl
  case h_12 | h_13 =>
    obtain ⟨l, rfl, rfl⟩ := laneOperand_eq_ok h
    rw [hop]; rfl
  case h_14 => cases h

/-- The four conditions of R63 on the fields. -/
theorem decodeFields_error_iff (op : BitVec 4) (zero arg : BitVec 2) :
    (∃ e, decodeFields op zero arg = .error e) ↔
      (op.toNat = 0 ∨ op.toNat = 14 ∨ op.toNat = 15) ∨ zero.toNat ≠ 0 ∨
      (1 ≤ op.toNat ∧ op.toNat ≤ 10 ∧ arg.toNat ≠ 0) ∨
      ((op.toNat = 12 ∨ op.toNat = 13) ∧ 2 ≤ arg.toNat) := by
  unfold decodeFields
  by_cases hz : zero = 0
  swap
  · have : zero.toNat ≠ 0 := fun h => hz (BitVec.eq_of_toNat_eq h)
    exact ⟨fun _ => .inr (.inl this), fun _ => ⟨_, if_pos hz⟩⟩
  have hz' : zero.toNat = 0 := by rw [hz]; rfl
  rw [if_neg (not_not.2 hz)]
  split <;> rename_i hop
  case h_1 | h_2 | h_3 | h_4 | h_5 | h_6 | h_7 | h_8 | h_9 | h_10 => rw [noOperand_error_iff]; omega
  case h_11 => simp [hop, hz']
  case h_12 | h_13 => rw [laneOperand_error_iff]; omega
  case h_14 =>
    have hlt : op.toNat < 16 := op.isLt
    have : op.toNat = 0 ∨ op.toNat = 14 ∨ op.toNat = 15 := by simp only [imp_false] at *; omega
    simp [this]

/-! ### The fields of a word (R60) -/

/-- A word whose field w[3:2] is 0 is put together from the other two. -/
theorem eventWord_fields {w : Byte} (h : w.extractLsb' 2 2 = 0) :
    eventWord (w.extractLsb' 4 4) (w.extractLsb' 0 2) = w := by
  have low : w.extractLsb' 2 2 ++ w.extractLsb' 0 2 = w.extractLsb' 0 4 :=
    BitVec.extractLsb'_append_extractLsb'_eq_extractLsb' rfl
  calc eventWord (w.extractLsb' 4 4) (w.extractLsb' 0 2)
      = w.extractLsb' 4 4 ++ (w.extractLsb' 2 2 ++ w.extractLsb' 0 2) := by rw [h]; rfl
    _ = w.extractLsb' 4 4 ++ w.extractLsb' 0 4 := by rw [low]
    _ = w := BitVec.extractLsb'_append_extractLsb' (w := 4) (len := 4)

theorem op_eq_toNat (w : Byte) : EventWord.op w = (w.extractLsb' 4 4).toNat := by
  have := w.isLt
  rw [EventWord.op, BitVec.extractLsb'_toNat, Nat.shiftRight_eq_div_pow]; omega

theorem zero_eq_toNat (w : Byte) : EventWord.zero w = (w.extractLsb' 2 2).toNat := by
  rw [EventWord.zero, BitVec.extractLsb'_toNat, Nat.shiftRight_eq_div_pow]

theorem arg_eq_toNat (w : Byte) : EventWord.arg w = (w.extractLsb' 0 2).toNat := by
  rw [EventWord.arg, BitVec.extractLsb'_toNat, Nat.shiftRight_zero]

/-! ### Decoder and encoder (R61 to R63) -/

theorem encode_of_decodeWord {w : Byte} {i : Instr} (h : decodeWord w = .ok i) : encode i = w := by
  obtain ⟨hz, hi⟩ := decodeFields_eq_ok h
  rw [hi, eventWord_fields hz]

/-- Settles O1: one direction is the round trip from the operation, the other reads the word's fields back. -/
theorem decodeInvertsEncode : Obligations.DecodeInvertsEncode :=
  fun _ i => ⟨encode_of_decodeWord, fun h => h ▸ decodeWord_encode i⟩

theorem step_of_reservedWord {s : State} {w : Byte} {rest : List Input} {e : DecodeError}
    (hs : s.env.inputs = .word w :: rest) (hw : decodeWord w = .error e) :
    step s = .next (State.answered { s with env := { s.env with inputs := rest } } .illegal 0) := by
  rw [step, nextInput_cons hs]
  simp only [hw, answerIllegal, respond_eq_answered]

/-- Settles O2: the conditions are those of `decodeFields_error_iff`, and the count is taken over all 256 words. -/
theorem reservedWordsAnsweredIllegal : Obligations.ReservedWordsAnsweredIllegal := by
  refine ⟨fun w => ?_, by decide +kernel, fun s w rest e hs hw => step_of_reservedWord hs hw⟩
  rw [op_eq_toNat, zero_eq_toNat, arg_eq_toNat]
  exact decodeFields_error_iff ..

/-- Settles O3: each word is its operation's own. -/
theorem sampleWordsDecode : Obligations.SampleWordsDecode :=
  ⟨decodeWord_encode .convt, decodeWord_encode .convp, decodeWord_encode .convh, decodeWord_encode .ldcal,
    decodeWord_encode .task, decodeWord_encode .getp, decodeWord_encode (.edge (LaneSet.single .l1)),
    decodeWord_encode (.tick .l1), decodeWord_encode (.isact .l0)⟩

/-! ### The byte maps (R66 to R68) -/

/-- A bit pattern read as a two's-complement number (R7) is its signed value. -/
theorem sext_toNat {n : Nat} (h : 0 < n) (x : BitVec n) : sext n x.toNat = x.toInt := by
  obtain ⟨m, rfl⟩ := Nat.exists_eq_succ_of_ne_zero h.ne'
  rw [sext, BitVec.toInt_eq_toNat_cond, Nat.succ_sub_one, Nat.pow_succ]
  split <;> split <;> omega

/-- Putting two bit patterns side by side is adding them at their weights. -/
theorem toNat_append_add {m n : Nat} (x : BitVec m) (y : BitVec n) : (x ++ y).toNat = x.toNat * 2 ^ n + y.toNat := by
  rw [BitVec.toNat_append, ← Nat.shiftLeft_add_eq_or_of_lt y.isLt, Nat.shiftLeft_eq]

theorem toNat_nibble (x : Byte) (lo : Nat) : (x.extractLsb' lo 4).toNat = slice x.toNat (lo + 3) lo := by
  rw [BitVec.extractLsb'_toNat, Nat.shiftRight_eq_div_pow, slice]
  congr 2; omega

theorem le16_eq_toNat (bs : List Byte) (k : Nat) : le16 bs k = (Reference.word16 bs k).toNat := by
  rw [Reference.word16, toNat_append_add, Nat.add_comm, Nat.mul_comm]; rfl

theorem leu16_eq_word16 (bs : List Byte) (k : Nat) : leu16 bs k = Reference.word16 bs k := by
  rw [leu16, le16_eq_toNat, BitVec.ofNat_toNat, BitVec.setWidth_eq]

theorem les16_eq_word16 (bs : List Byte) (k : Nat) : les16 bs k = Reference.word16 bs k := by
  rw [les16, le16_eq_toNat, sext_toNat (by decide), BitVec.ofInt_toInt]

theorem pairedNibble_eq_nibbled (signed : Bool) (p : BitVec 12) :
    pairedNibble signed p.toNat = Reference.nibbled signed p := by
  cases signed with
  | true =>
    calc pairedNibble true p.toNat = BitVec.ofInt 16 (sext 12 p.toNat) := rfl
      _ = p.signExtend 16 := by rw [sext_toNat (by decide)]; rfl
  | false =>
    calc pairedNibble false p.toNat = BitVec.ofInt 16 (p.toNat : Int) := rfl
      _ = p.setWidth 16 := by rw [BitVec.ofInt_natCast, BitVec.ofNat_toNat]

/-- The low nibble of e[4] belongs to `dig_H4` (R67). -/
theorem h4Pattern_eq_toNat (e : List Byte) :
    h4Pattern e = (Reference.byte e 3 ++ (Reference.byte e 4).extractLsb' 0 4).toNat := by
  rw [toNat_append_add, toNat_nibble, Nat.mul_comm]; rfl

/-- The high nibble of e[4] belongs to `dig_H5` (R67). -/
theorem h5Pattern_eq_toNat (e : List Byte) :
    h5Pattern e = (Reference.byte e 5 ++ (Reference.byte e 4).extractLsb' 4 4).toNat := by
  rw [toNat_append_add, toNat_nibble, Nat.mul_comm]; rfl

theorem unpackCalibration_eq_calibration (signed : Bool) (a e : List Byte) :
    unpackCalibration signed a e = Reference.calibration signed a e := by
  have h1 : BitVec.ofNat 8 (byteVal a 25) = Reference.byte a 25 := BitVec.ofNat_toNat ..
  have h3 : BitVec.ofNat 8 (byteVal e 2) = Reference.byte e 2 := BitVec.ofNat_toNat ..
  have h2 : BitVec.ofInt 16 (sext 16 (byteVal e 0 + 256 * byteVal e 1)) = Reference.word16 e 0 := les16_eq_word16 e 0
  have h6 : BitVec.ofInt 8 (sext 8 (byteVal e 6)) = Reference.byte e 6 := by
    rw [byteVal, sext_toNat (by decide), BitVec.ofInt_toInt]; rfl
  simp only [unpackCalibration, Reference.calibration, leu16_eq_word16, les16_eq_word16, h1, h2, h3, h6,
    h4Pattern_eq_toNat, h5Pattern_eq_toNat, pairedNibble_eq_nibbled]

/-- A byte shifted over a field it does not overlap: joining the two by OR is adding them. -/
theorem toNat_byte_shiftLeft_or (x : Byte) {n : Nat} (hn : n ≤ 24) {y : Word} (hy : y.toNat < 2 ^ n) :
    (x.setWidth 32 <<< n ||| y).toNat = x.toNat * 2 ^ n + y.toNat := by
  have hfit : x.toNat <<< n < 2 ^ 32 := by
    calc x.toNat <<< n = x.toNat * 2 ^ n := Nat.shiftLeft_eq ..
      _ < 2 ^ 8 * 2 ^ 24 := Nat.mul_lt_mul_of_lt_of_le x.isLt (Nat.pow_le_pow_right (by decide) hn) (by decide)
  rw [BitVec.toNat_or, BitVec.toNat_shiftLeft, BitVec.toNat_setWidth_of_le (by decide), Nat.mod_eq_of_lt hfit,
    ← Nat.shiftLeft_add_eq_or_of_lt hy, Nat.shiftLeft_eq]

theorem toNat_highNibble (x : Byte) : ((x.setWidth 32 >>> 4) &&& 0xF#32).toNat = slice x.toNat 7 4 := by
  rw [BitVec.toNat_and, BitVec.toNat_ushiftRight, BitVec.toNat_setWidth_of_le (by decide), Nat.shiftRight_eq_div_pow]
  exact Nat.and_two_pow_sub_one_eq_mod _ 4

/-- A 20-bit count is two bytes and a high nibble side by side (R68). -/
theorem ofNat_count20 (d : List Byte) (k : Nat) :
    BitVec.ofNat 32 (count20 d k) =
      ((Reference.byte d k).setWidth 32 <<< 12) ||| ((Reference.byte d (k + 1)).setWidth 32 <<< 4) |||
        (((Reference.byte d (k + 2)).setWidth 32 >>> 4) &&& 0xF#32) := by
  have h₁ := (Reference.byte d (k + 1)).isLt
  have h₂ : slice (Reference.byte d (k + 2)).toNat 7 4 < 2 ^ 4 := slice_lt ..
  have low := toNat_byte_shiftLeft_or (Reference.byte d (k + 1)) (n := 4) (by decide) (toNat_highNibble _ ▸ h₂)
  rw [toNat_highNibble] at low
  apply BitVec.eq_of_toNat_eq
  rw [BitVec.or_assoc, toNat_byte_shiftLeft_or _ (by decide) (by omega), low, BitVec.toNat_ofNat,
    Nat.mod_eq_of_lt ((count20_lt d k).trans (by decide)), count20]
  simp only [byteVal, Reference.byte]; omega

/-- A 16-bit count is two bytes side by side (R68). -/
theorem ofNat_count16 (d : List Byte) (k : Nat) :
    BitVec.ofNat 32 (count16 d k) =
      ((Reference.byte d k).setWidth 32 <<< 8) ||| (Reference.byte d (k + 1)).setWidth 32 := by
  have low : ((Reference.byte d (k + 1)).setWidth 32).toNat = _ := BitVec.toNat_setWidth_of_le (by decide)
  apply BitVec.eq_of_toNat_eq
  rw [toNat_byte_shiftLeft_or _ (by decide) (low.trans_lt (BitVec.isLt _)), low, BitVec.toNat_ofNat,
    Nat.mod_eq_of_lt ((count16_lt d k).trans (by decide)), count16, Nat.mul_comm]
  rfl

theorem unpackRaw_eq_raw (d : List Byte) : unpackRaw d = Reference.raw d := by
  simp only [unpackRaw, Reference.raw, ofNat_count20, ofNat_count16]

/-! ### The loads with their reads whole (R110, R112) -/

theorem delivers_unique {a : BusAnswer} {n : Nat} {bs cs : List Byte} (hb : Delivers a n bs) (hc : Delivers a n cs) :
    bs = cs := by
  obtain ⟨rfl, -⟩ := hb
  exact BusAnswer.bytes.inj hc.1

/-- Settles O21: with both reads whole LDCAL's steps can end one way only. -/
theorem ldcalLoadsCalibration : Obligations.LdcalLoadsCalibration := by
  refine ⟨by decide, fun s a b ha hb => ?_⟩
  have he : exec .ldcal s = .next (conclude (ldcalSteps s)) := rfl
  rcases ldcalSteps_cases s with ⟨a', b', ha', hb', h⟩ | ⟨hf, -⟩ | ⟨-, -, hf, -⟩
  · rw [he, h, conclude_ok, unpackCalibration_eq_calibration, delivers_unique ha ha', delivers_unique hb hb']
  · exact absurd ha (hf a)
  · exact absurd hb (hf b)

/-- Settles O24: with its read whole LDRAW's steps can end one way only. -/
theorem ldrawLoadsSample : Obligations.LdrawLoadsSample := by
  refine ⟨by decide, fun s d hd => ?_⟩
  have he : exec .ldraw s = .next (conclude (ldrawSteps s)) := rfl
  rcases ldrawSteps_cases s with ⟨d', hd', h⟩ | ⟨hf, -⟩
  · rw [he, h, conclude_ok, unpackRaw_eq_raw, delivers_unique hd hd']
  · exact absurd hd (hf d)

/-! ### The answers to MAIN (R64, R166) -/

/-- A MAIN operation ends by one answer: OK, or an exception, given in a state in which nothing was answered yet. -/
theorem does_main_answers {i : Instr} {s t : State} (h : Does i s t) (hi : i.context = .main) :
    ∃ u : State, ((∃ v, t = u.answered .ok v) ∨ ∃ e v, t = u.failed e v ∧ e ≠ .ok) ∧
      u.out.responses = s.out.responses ∧ u.out.diag = s.out.diag := by
  cases h with
  | edge | tick => cases hi
  | convpStale | convhStale | ldcalFailsA | ldcalFailsB | ldrawFails | initFails | initFailsLast | taskFails
  | taskNotReady => exact ⟨_, .inr ⟨_, _, rfl, by decide⟩, rfl, rfl⟩
  | _ => exact ⟨_, .inl ⟨_, rfl⟩, rfl, rfl⟩

/-- EDGE and TICK have nobody to answer. -/
theorem does_handler_silent {i : Instr} {s t : State} (h : Does i s t) (hi : i.context ≠ .main) :
    t.out.responses = s.out.responses ∧ t.out.diag = s.out.diag := by
  cases h with
  | edge | tick => simp
  | _ => exact absurd rfl hi

/-- Settles O44: the one answer is OK and sends no event, or an exception and sends its own status and info. -/
theorem oneResponsePerMainOperation : Obligations.OneResponsePerMainOperation := by
  intro i s t h
  have hd := exec_does h
  refine ⟨fun hi => ?_, does_handler_silent hd⟩
  obtain ⟨u, ⟨v, rfl⟩ | ⟨e, v, rfl, he⟩, hresp, hdiag⟩ := does_main_answers hd hi
  · exact ⟨{ status := .ok, value := v }, by simp [hresp], by simp [hdiag]⟩
  · exact ⟨{ status := e, value := v }, by simp [hresp], by simp [hdiag, he]⟩

end Sys2Proof.Proofs

/-! PROOFS. The temperature conversion (40_convert_temperature.md): CONVT computes the manufacturer's expression on
machine words (R80, R81) from its five inputs alone (R82), the steps of `compT` are exact wherever they stay in s32
(R83), the low bits of the count are shifted out (R84), and the trim reaches the temperature only (R81). -/

namespace Sys2Proof.Proofs

open Sys2Proof.Machine Sys2Proof.Laws

/-! ### The conversions as whole states (R81, R95, R102) -/

theorem exec_convt (s : State) :
    exec .convt s = .next (State.answered { s with engine := convertedT s.cfg s.engine } .ok
      (convertedT s.cfg s.engine).outT) := rfl

theorem exec_convp_of_valid {s : State} (h : s.engine.tfineValid = true) :
    exec .convp s = .next (State.answered { s with engine := convertedP s.engine } .ok (convertedP s.engine).outP) := by
  rw [exec, execConvp, convpSteps_of_valid h, conclude_ok]

theorem exec_convp_of_stale {s : State} (h : s.engine.tfineValid = false) :
    exec .convp s = .next (s.failed .staleTfine 0) := by
  rw [exec, execConvp, convpSteps_of_stale h, conclude_raised]; rfl

theorem exec_convh_of_valid {s : State} (h : s.engine.tfineValid = true) :
    exec .convh s = .next (State.answered { s with engine := convertedH s.engine } .ok (convertedH s.engine).outH) := by
  rw [exec, execConvh, convhSteps_of_valid h, conclude_ok]

theorem exec_convh_of_stale {s : State} (h : s.engine.tfineValid = false) :
    exec .convh s = .next (s.failed .staleTfine 0) := by
  rw [exec, execConvh, convhSteps_of_stale h, conclude_raised]; rfl

/-! ### `compT` on machine words (R80) -/

/-- The shifts, products and sums of R8 on the registers are those of 32-bit words, term by term. -/
theorem compTFine_eq_reference (adcT : Word) (c : Calibration) :
    compTFine adcT.toInt c.digT1.toNat c.digT2.toInt c.digT3.toInt = (Reference.tFine adcT c).toInt := by
  rw [toNat_eq_toInt_setWidth (w := 32) (by decide) c.digT1,
    toInt_eq_toInt_signExtend (w := 32) (by decide) c.digT2, toInt_eq_toInt_signExtend (w := 32) (by decide) c.digT3]
  simp only [compTFine, compTVar1, compTVar2, asr_toInt, shl32_toInt, sub32_toInt, mul32_toInt, add32_toInt]
  rfl

theorem compTOut_eq_reference (tf : Word) : compTOut tf.toInt = (Reference.temperature tf).toInt := by
  have h5 : (5 : Int) = (5#32).toInt := by decide
  have h128 : (128 : Int) = (128#32).toInt := by decide
  rw [compTOut, h5, h128, mul32_toInt, add32_toInt, asr_toInt]
  rfl

theorem temperatureOf_eq_reference (e : Engine) :
    temperatureOf e = ((Reference.temperature (Reference.tFine e.raw.adcT e.cal)).toInt,
      (Reference.tFine e.raw.adcT e.cal).toInt) := by
  rw [temperatureOf, compT, compTFine_eq_reference, compTOut_eq_reference]

theorem convertedT_eq_reference (c : Config) (e : Engine) :
    convertedT c e = { e with
      tFine := Reference.tFine e.raw.adcT e.cal
      outT := Reference.temperature (Reference.tFine e.raw.adcT e.cal) - c.tempOffset
      tfineValid := true } := by
  rw [convertedT, temperatureOf_eq_reference, sub32_toInt, toWord_toInt, toWord_toInt]

/-- Settles O10: CONVT's one write, its values read on machine words. -/
theorem convtComputesTemperature : Obligations.ConvtComputesTemperature := by
  refine ⟨by decide, fun s => ?_⟩
  rw [exec_convt, convertedT_eq_reference]

/-! ### What CONVT reads (R82) -/

theorem temperatureOf_congr {e e' : Engine} (hadc : e.raw.adcT = e'.raw.adcT) (h1 : e.cal.digT1 = e'.cal.digT1)
    (h2 : e.cal.digT2 = e'.cal.digT2) (h3 : e.cal.digT3 = e'.cal.digT3) : temperatureOf e = temperatureOf e' := by
  simp only [temperatureOf, hadc, h1, h2, h3]

/-- CONVT writes none of its own inputs. -/
theorem temperatureOf_convertedT (c : Config) (e : Engine) : temperatureOf (convertedT c e) = temperatureOf e :=
  temperatureOf_congr rfl rfl rfl rfl

theorem convertedT_idem (c : Config) (e : Engine) : convertedT c (convertedT c e) = convertedT c e := by
  rw [convertedT, temperatureOf_convertedT]; rfl

/-- Settles O14: both values and the answer are functions of `temperatureOf` and the trim. -/
theorem convtDeterministic : Obligations.ConvtDeterministic := by
  refine ⟨fun s s' t t' h h' hadc h1 h2 h3 htrim => ?_, fun s t h => ?_⟩
  · cases exec_does h
    cases exec_does h'
    have heq := temperatureOf_congr hadc h1 h2 h3
    have hout : (convertedT s.cfg s.engine).outT = (convertedT s'.cfg s'.engine).outT := by
      rw [convertedT, convertedT, heq, htrim]
    exact ⟨congrArg (fun r : Int × Int => toWord r.2) heq, hout, by simp [hout]⟩
  · cases exec_does h
    rw [exec_convt, answered_cfg, answered_engine, convertedT_idem]
    rfl

/-! ### Where the steps of `compT` are exact (R83) -/

/-- The s32 range. -/
def InS32 (v : Int) : Prop := -2147483648 ≤ v ∧ v ≤ 2147483647

theorem inS32_of_abs_le {v b : Int} (h : |v| ≤ b) (hb : b ≤ 2147483647) : InS32 v := by
  obtain ⟨h₁, h₂⟩ := abs_le.1 h
  exact ⟨by omega, by omega⟩

theorem add32_of_inS32 {a b : Int} (h : InS32 (a + b)) : add32 a b = a + b := wrap32_eq_self h.1 h.2

theorem sub32_of_inS32 {a b : Int} (h : InS32 (a - b)) : sub32 a b = a - b := wrap32_eq_self h.1 h.2

theorem mul32_of_inS32 {a b : Int} (h : InS32 (a * b)) : mul32 a b = a * b := wrap32_eq_self h.1 h.2

/-- The first difference, `d3`. -/
theorem d3_of_inS32 {adcT t1 : Int} (hshl : InS32 (2 * t1)) (hsub : InS32 (adcT / 8 - 2 * t1)) :
    sub32 (asr adcT 3) (shl32 t1 1) = adcT / 8 - 2 * t1 := by
  have hs : shl32 t1 1 = 2 * t1 := (congrArg wrap32 (mul_comm t1 2)).trans (wrap32_eq_self hshl.1 hshl.2)
  rw [hs]
  exact sub32_of_inS32 hsub

/-- The second difference, `d4`. -/
theorem d4_of_inS32 {adcT t1 : Int} (h : InS32 (adcT / 16 - t1)) : sub32 (asr adcT 4) t1 = adcT / 16 - t1 :=
  sub32_of_inS32 h

/-- The exact value of `t_fine`, where nothing wraps. -/
def exactTFine (adcT t1 t2 t3 : Int) : Int :=
  (adcT / 8 - 2 * t1) * t2 / 2048 + (adcT / 16 - t1) * (adcT / 16 - t1) / 4096 * t3 / 16384

theorem compTOut_of_inS32 {tf : Int} (hmul : InS32 (tf * 5)) (hadd : InS32 (tf * 5 + 128)) :
    compTOut tf = (tf * 5 + 128) / 256 := by
  rw [compTOut, mul32_of_inS32 hmul, add32_of_inS32 hadd]; rfl

/-- Where no step of `compT` leaves the s32 range its result is the exact one. -/
theorem compT_of_noWrap {adcT t1 t2 t3 : Int} (h : CompTNoWrap adcT t1 t2 t3) :
    compT adcT t1 t2 t3 = ((exactTFine adcT t1 t2 t3 * 5 + 128) / 256, exactTFine adcT t1 t2 t3) := by
  obtain ⟨hshl, hd3, hp1, hd4, hsq, hp2, hsum, hmul, hadd⟩ := h
  have var1 : compTVar1 adcT t1 t2 = (adcT / 8 - 2 * t1) * t2 / 2048 := by
    rw [compTVar1, d3_of_inS32 hshl hd3, mul32_of_inS32 hp1]; rfl
  have var2 : compTVar2 adcT t1 t3 = (adcT / 16 - t1) * (adcT / 16 - t1) / 4096 * t3 / 16384 := by
    have hp2' : InS32 (asr ((adcT / 16 - t1) * (adcT / 16 - t1)) 12 * t3) := hp2
    simp only [compTVar2, d4_of_inS32 hd4, mul32_of_inS32 hsq, mul32_of_inS32 hp2']; rfl
  have fine : compTFine adcT t1 t2 t3 = exactTFine adcT t1 t2 t3 := by
    rw [compTFine, var1, var2]; exact add32_of_inS32 hsum
  have out : compTOut (exactTFine adcT t1 t2 t3) = (exactTFine adcT t1 t2 t3 * 5 + 128) / 256 :=
    compTOut_of_inS32 hmul hadd
  rw [compT, fine, out]

/-- The square of a difference fits s32 exactly up to 46340, the integer square root of 2^31 - 1. -/
theorem mul32_self_iff (d : Int) : mul32 d d = d * d ↔ -46341 < d ∧ d < 46341 := by
  rw [mul32, wrap32_eq_self_iff, ← abs_lt]
  constructor
  · rintro ⟨-, h⟩
    exact abs_lt_iff_mul_self_lt.2 (show d * d < 46341 * 46341 by omega)
  · intro h
    have hsq : d * d ≤ 46340 * 46340 := abs_le_iff_mul_self_le.1 (show |d| ≤ |46340| from Int.le_of_lt_add_one h)
    have hnn := mul_self_nonneg d
    omega

theorem abs_mul_le_mul {a b A B : Int} (ha : |a| ≤ A) (hb : |b| ≤ B) : |a * b| ≤ A * B :=
  (abs_mul a b).trans_le (mul_le_mul ha hb (abs_nonneg b) ((abs_nonneg a).trans ha))

theorem abs_ediv_le {a A : Int} (n : Int) (hn : 0 < n) (ha : |a| ≤ A * n) : |a / n| ≤ A := by
  obtain ⟨h₁, h₂⟩ := abs_le.1 ha
  exact abs_le.2 ⟨(Int.le_ediv_iff_mul_le hn).2 (by linarith [neg_mul A n]), Int.ediv_le_of_le_mul hn h₂⟩

/-- The sufficient box of R83. -/
structure TempBox (adcT t1 t2 t3 : Int) : Prop where
  adcT : 0 ≤ adcT ∧ adcT ≤ 1048575
  t1 : 27000 ≤ t1 ∧ t1 ≤ 30000
  t2 : |t2| ≤ 27000
  t3 : |t3| ≤ 5000

section Box

variable {adcT t1 t2 t3 : Int} (h : TempBox adcT t1 t2 t3)

include h

theorem TempBox.d3_le : |adcT / 8 - 2 * t1| ≤ 77071 := by
  obtain ⟨⟨_, _⟩, ⟨_, _⟩, -, -⟩ := h
  exact abs_le.2 ⟨by omega, by omega⟩

theorem TempBox.d4_le : |adcT / 16 - t1| ≤ 38535 := by
  obtain ⟨⟨_, _⟩, ⟨_, _⟩, -, -⟩ := h
  exact abs_le.2 ⟨by omega, by omega⟩

theorem TempBox.product1_le : |(adcT / 8 - 2 * t1) * t2| ≤ 77071 * 27000 := abs_mul_le_mul h.d3_le h.t2

theorem TempBox.square_le : |(adcT / 16 - t1) * (adcT / 16 - t1)| ≤ 38535 * 38535 := abs_mul_le_mul h.d4_le h.d4_le

theorem TempBox.product2_le : |(adcT / 16 - t1) * (adcT / 16 - t1) / 4096 * t3| ≤ 362536 * 5000 :=
  abs_mul_le_mul (abs_ediv_le 4096 (by decide) (h.square_le.trans (by decide))) h.t3

theorem TempBox.exactTFine_le : |exactTFine adcT t1 t2 t3| ≤ 1016073 + 110638 :=
  (abs_add_le _ _).trans (add_le_add (abs_ediv_le 2048 (by decide) (h.product1_le.trans (by decide)))
    (abs_ediv_le 16384 (by decide) (h.product2_le.trans (by decide))))

theorem TempBox.compTNoWrap : CompTNoWrap adcT t1 t2 t3 := by
  obtain ⟨hlo, hhi⟩ := h.t1
  obtain ⟨hlo', hhi'⟩ := abs_le.1 h.exactTFine_le
  refine ⟨⟨by omega, by omega⟩, inS32_of_abs_le h.d3_le (by decide), inS32_of_abs_le h.product1_le (by decide),
    inS32_of_abs_le h.d4_le (by decide), inS32_of_abs_le h.square_le (by decide),
    inS32_of_abs_le h.product2_le (by decide), inS32_of_abs_le h.exactTFine_le (by decide), ?_, ?_⟩
  · show InS32 (exactTFine adcT t1 t2 t3 * 5)
    exact ⟨by omega, by omega⟩
  · show InS32 (exactTFine adcT t1 t2 t3 * 5 + 128)
    exact ⟨by omega, by omega⟩

end Box

/-- Settles O15: the exactness of the differences and of the square, then the bounds of R83 on the box. -/
theorem temperatureNoWrapBox : Obligations.TemperatureNoWrapBox := by
  refine ⟨fun adcT t1 _ _ _ _ => ⟨d3_of_inS32 ⟨by omega, by omega⟩ ⟨by omega, by omega⟩,
    d4_of_inS32 ⟨by omega, by omega⟩⟩, fun d4 _ _ => mul32_self_iff d4, ?_⟩
  intro adcT t1 t2 t3 hadc hadc' ht1 ht1' ht2 ht2' ht3 ht3'
  have box : TempBox adcT t1 t2 t3 := ⟨⟨hadc, hadc'⟩, ⟨ht1, ht1'⟩, abs_le.2 ⟨ht2, ht2'⟩, abs_le.2 ⟨ht3, ht3'⟩⟩
  exact ⟨box.compTNoWrap, compT_of_noWrap box.compTNoWrap, abs_lt.1 (box.exactTFine_le.trans_lt (by decide))⟩

/-! ### The low bits of the count (R84) -/

/-- The second term sees the count only through its shift by 4. -/
theorem compTVar2_congr {adcT adcT' : Int} (h : asr adcT 4 = asr adcT' 4) (t1 t3 : Int) :
    compTVar2 adcT t1 t3 = compTVar2 adcT' t1 t3 := by
  rw [compTVar2, compTVar2, h]

/-- `compT` sees the count only through its shift by 3: what that shift drops, the shift by 4 drops too. -/
theorem compT_congr {adcT adcT' : Int} (h : asr adcT 3 = asr adcT' 3) (t1 t2 t3 : Int) :
    compT adcT t1 t2 t3 = compT adcT' t1 t2 t3 := by
  have h4 : asr adcT 4 = asr adcT' 4 := by
    rw [asr_eq_div, asr_eq_div] at *; omega
  have hfine : compTFine adcT t1 t2 t3 = compTFine adcT' t1 t2 t3 := by
    rw [compTFine, compTFine, compTVar1, compTVar1, h, compTVar2_congr h4]
  rw [compT, compT, hfine]

/-- Settles O16: a shift by n drops what is added below bit n. -/
theorem temperatureIgnoresLowBits : Obligations.TemperatureIgnoresLowBits := by
  refine ⟨fun q k t1 t2 t3 h₀ h₁ => compT_congr ?_ t1 t2 t3, fun q k t1 t3 h₀ h₁ => compTVar2_congr ?_ t1 t3⟩ <;>
  · rw [asr_eq_div, asr_eq_div]; omega

/-! ### What the trim reaches (R81, R96, R104) -/

/-- Settles O20: neither the stale check nor `pressureOf` and `humidityOf` read the trim or `out_T`. -/
theorem trimReachesTemperatureOnly : Obligations.TrimReachesTemperatureOnly := by
  rintro s o t i (rfl | rfl) trimmed <;> cases hv : s.engine.tfineValid
  · exact ⟨_, exec_convp_of_stale hv, exec_convp_of_stale (s := trimmed s) hv⟩
  · exact ⟨_, exec_convp_of_valid hv, exec_convp_of_valid (s := trimmed s) hv⟩
  · exact ⟨_, exec_convh_of_stale hv, exec_convh_of_stale (s := trimmed s) hv⟩
  · exact ⟨_, exec_convh_of_valid hv, exec_convh_of_valid (s := trimmed s) hv⟩

end Sys2Proof.Proofs

/-! PROOFS. The pressure conversion (41_convert_pressure.md): CONVP computes the manufacturer's text on 64-bit machine
words (R91, R94, R95), its zero guard (R93), and the range of `t_fine` where the sums before the division are exact
(R96). -/

namespace Sys2Proof.Proofs

open Sys2Proof.Machine Sys2Proof.Laws

/-! ### `compP` on machine words (R91) -/

/-- The centred `t_fine` both sums start from. -/
theorem sub64_tFine (tf : Word) : sub64 tf.toInt 128000 = (Reference.iext 64 tf - 128000#64).toInt := by
  have h128000 : (128000 : Int) = (128000#64).toInt := by decide
  rw [toInt_eq_toInt_signExtend (w := 64) (by decide) tf, h128000, sub64_toInt]; rfl

theorem compPDen_eq_reference (tf : Word) (c : Calibration) :
    compPDen tf.toInt c.digP1.toNat c.digP2.toInt c.digP3.toInt = (Reference.pressureDen tf c).toInt := by
  have h2pow47 : (140737488355328 : Int) = (1#64 <<< 47).toInt := by decide
  rw [toNat_eq_toInt_setWidth (w := 64) (by decide) c.digP1,
    toInt_eq_toInt_signExtend (w := 64) (by decide) c.digP2, toInt_eq_toInt_signExtend (w := 64) (by decide) c.digP3]
  simp only [compPDen, compPV1b, sub64_tFine, h2pow47, mul64_toInt, asr_toInt, shl64_toInt, add64_toInt]
  rfl

/-- `v2` of `compP` as a machine word. -/
def pressureV2 (tf : Word) (c : Calibration) : BitVec 64 :=
  let v1 := Reference.iext 64 tf - 128000#64
  v1 * v1 * Reference.iext 64 c.digP6 + ((v1 * Reference.iext 64 c.digP5) <<< 17) + (Reference.iext 64 c.digP4 <<< 35)

/-- The quotient of R94 as a machine word. -/
def pressureQuot (adcP : Word) (v2 den : BitVec 64) : BitVec 64 :=
  ((((1048576#64 - Reference.iext 64 adcP) <<< 31) - v2) * 3125#64).sdiv den

/-- The final stage of `compP` as a machine word. -/
def pressureFinal (p : BitVec 64) (c : Calibration) : BitVec 64 :=
  let w1 := (Reference.iext 64 c.digP9 * (p.sshiftRight 13) * (p.sshiftRight 13)).sshiftRight 25
  let w2 := (Reference.iext 64 c.digP8 * p).sshiftRight 19
  ((p + w1 + w2).sshiftRight 8) + (Reference.iext 64 c.digP7 <<< 4)

/-- The manufacturer's text is these stages, behind the zero guard. -/
theorem pressure_eq (adcP tf : Word) (c : Calibration) :
    Reference.pressure adcP tf c =
      if Reference.pressureDen tf c = 0 then 0
      else (pressureFinal (pressureQuot adcP (pressureV2 tf c) (Reference.pressureDen tf c)) c).setWidth 32 := rfl

theorem compPV2_toInt (tf : Word) (c : Calibration) :
    compPV2 tf.toInt c.digP4.toInt c.digP5.toInt c.digP6.toInt = (pressureV2 tf c).toInt := by
  rw [toInt_eq_toInt_signExtend (w := 64) (by decide) c.digP4,
    toInt_eq_toInt_signExtend (w := 64) (by decide) c.digP5, toInt_eq_toInt_signExtend (w := 64) (by decide) c.digP6]
  simp only [compPV2, sub64_tFine, mul64_toInt, shl64_toInt, add64_toInt]
  rfl

theorem compPQuot_toInt (adcP : Word) (v2 den : BitVec 64) :
    compPQuot adcP.toInt v2.toInt den.toInt = (pressureQuot adcP v2 den).toInt := by
  have h2pow20 : (1048576 : Int) = (1048576#64).toInt := by decide
  have h3125 : (3125 : Int) = (3125#64).toInt := by decide
  rw [toInt_eq_toInt_signExtend (w := 64) (by decide) adcP, compPQuot, h2pow20, h3125]
  simp only [sub64_toInt, shl64_toInt, mul64_toInt, sdiv64_toInt]
  rfl

theorem compPFinal_toInt (p : BitVec 64) (c : Calibration) :
    compPFinal p.toInt c.digP7.toInt c.digP8.toInt c.digP9.toInt = (pressureFinal p c).toInt := by
  rw [toInt_eq_toInt_signExtend (w := 64) (by decide) c.digP7,
    toInt_eq_toInt_signExtend (w := 64) (by decide) c.digP8, toInt_eq_toInt_signExtend (w := 64) (by decide) c.digP9]
  simp only [compPFinal, asr_toInt, mul64_toInt, shl64_toInt, add64_toInt]
  rfl

/-- The guard of R93 tests the same denominator in both forms; past it the stages agree one by one. -/
theorem toWord_pressureOf (e : Engine) :
    toWord (pressureOf e) = Reference.pressure e.raw.adcP e.tFine e.cal := by
  rw [pressureOf, compP, compPDen_eq_reference, pressure_eq]
  by_cases hden : Reference.pressureDen e.tFine e.cal = 0
  · rw [hden]; rfl
  · have hden' : (Reference.pressureDen e.tFine e.cal).toInt ≠ 0 := fun h => hden (BitVec.eq_of_toInt_eq h)
    rw [if_neg hden, if_neg hden', compPV2_toInt, compPQuot_toInt, compPFinal_toInt, toWord_u32_toInt]

/-- CONVP on a valid `t_fine` as a whole state, its value read on machine words (R95). -/
theorem exec_convp_eq_reference {s : State} (h : s.engine.tfineValid = true) :
    exec .convp s = .next (State.answered
      { s with engine := { s.engine with outP := Reference.pressure s.engine.raw.adcP s.engine.tFine s.engine.cal } }
      .ok (Reference.pressure s.engine.raw.adcP s.engine.tFine s.engine.cal)) := by
  rw [exec_convp_of_valid h, convertedP, toWord_pressureOf]

/-- Settles O11: CONVP's one write, its value read on machine words. -/
theorem convpComputesPressure : Obligations.ConvpComputesPressure :=
  ⟨by decide, fun _ h => exec_convp_eq_reference h⟩

/-! ### Where the 64-bit steps are exact (R96) -/

theorem wrap64_of_abs_le {v : Int} (h : |v| ≤ 9223372036854775807) : wrap64 v = v := by
  obtain ⟨h₁, h₂⟩ := abs_le.1 h
  exact wrap64_eq_self (by omega) h₂

section Exact

variable {a b A B : Int} (ha : |a| ≤ A)

include ha

theorem shl64_of_abs_le (n : Nat) (h : A * 2 ^ n ≤ 9223372036854775807) : shl64 a n = a * 2 ^ n := by
  have hpow : |(2 : Int) ^ n| ≤ 2 ^ n := (abs_of_nonneg (by positivity)).le
  rw [shl64, Nat.cast_pow, Nat.cast_ofNat, wrap64_of_abs_le ((abs_mul_le_mul ha hpow).trans h)]

variable (hb : |b| ≤ B)

include hb

theorem add64_of_abs_le (h : A + B ≤ 9223372036854775807) : add64 a b = a + b :=
  wrap64_of_abs_le ((abs_add_le a b).trans ((add_le_add ha hb).trans h))

theorem mul64_of_abs_le (h : A * B ≤ 9223372036854775807) : mul64 a b = a * b :=
  wrap64_of_abs_le ((abs_mul_le_mul ha hb).trans h)

end Exact

section Sums

variable {tf : Int} (htf : |tf - 128000| ≤ 1048575)

include htf

theorem sub64_128000_of_abs_le : sub64 tf 128000 = tf - 128000 := wrap64_of_abs_le (htf.trans (by decide))

/-- The three terms of `v2` are at most 2^55, 2^52 and 2^50 in absolute value, so every step is exact. -/
theorem compPV2_of_abs_le {p4 p5 p6 : Int} (h4 : |p4| ≤ 32768) (h5 : |p5| ≤ 32768) (h6 : |p6| ≤ 32768) :
    compPV2 tf p4 p5 p6 =
      (tf - 128000) * (tf - 128000) * p6 + (tf - 128000) * p5 * 131072 + p4 * 34359738368 := by
  have hsq := abs_mul_le_mul htf htf
  have h1 := abs_mul_le_mul hsq h6
  have hlin := abs_mul_le_mul htf h5
  have h2 : |(tf - 128000) * p5 * 2 ^ 17| ≤ 1048575 * 32768 * 2 ^ 17 := abs_mul_le_mul hlin (by decide)
  have h3 : |p4 * 2 ^ 35| ≤ 32768 * 2 ^ 35 := abs_mul_le_mul h4 (by decide)
  have h12 := (abs_add_le _ _).trans (add_le_add h1 h2)
  simp only [compPV2]
  rw [sub64_128000_of_abs_le htf, mul64_of_abs_le htf htf (by decide), mul64_of_abs_le hsq h6 (by decide),
    mul64_of_abs_le htf h5 (by decide), shl64_of_abs_le hlin 17 (by decide), add64_of_abs_le h1 h2 (by decide),
    shl64_of_abs_le h4 35 (by decide), add64_of_abs_le h12 h3 (by decide)]
  rfl

/-- The products of `v1b` are below 2^55, and both its terms, after the shifts, below 2^47. -/
theorem compPV1b_of_abs_le {p2 p3 : Int} (h2 : |p2| ≤ 32768) (h3 : |p3| ≤ 32768) :
    compPV1b tf p2 p3 = (tf - 128000) * (tf - 128000) * p3 / 256 + (tf - 128000) * p2 * 4096 := by
  have hsq := abs_mul_le_mul htf htf
  have hdiv : |(tf - 128000) * (tf - 128000) * p3 / 256| ≤ 1048575 * 1048575 * 128 :=
    abs_ediv_le 256 (by decide) ((abs_mul_le_mul hsq h3).trans (by decide))
  have hlin := abs_mul_le_mul htf h2
  have hshl : |(tf - 128000) * p2 * 2 ^ 12| ≤ 1048575 * 32768 * 2 ^ 12 := abs_mul_le_mul hlin (by decide)
  simp only [compPV1b]
  rw [sub64_128000_of_abs_le htf, mul64_of_abs_le htf htf (by decide), mul64_of_abs_le hsq h3 (by decide),
    mul64_of_abs_le htf h2 (by decide), shl64_of_abs_le hlin 12 (by decide)]
  exact add64_of_abs_le hdiv hshl (by decide)

end Sums

/-- Settles O18: an s16 coefficient is at most 2^15 in absolute value, which bounds every term of both sums. -/
theorem pressureTermsDoNotWrap : Obligations.PressureTermsDoNotWrap := by
  intro tf p2 p3 p4 p5 p6 htf htf' _ _ _ _ _ _ _ _ _ _ v1
  have hv1 : |tf - 128000| ≤ 1048575 := abs_le.2 ⟨by omega, by omega⟩
  have s16 {x : Int} (h : -32768 ≤ x) (h' : x ≤ 32767) : |x| ≤ 32768 := abs_le.2 ⟨h, by omega⟩
  exact ⟨compPV2_of_abs_le hv1 (s16 ‹_› ‹_›) (s16 ‹_› ‹_›) (s16 ‹_› ‹_›),
    compPV1b_of_abs_le hv1 (s16 ‹_› ‹_›) (s16 ‹_› ‹_›)⟩

/-! ### The zero guard (R93) -/

theorem compPDen_digP1_zero (tf p2 p3 : Int) : compPDen tf 0 p2 p3 = 0 := by
  rw [compPDen, mul64, mul_zero]; rfl

theorem compP_of_den_zero {adcP tf p1 p2 p3 p4 p5 p6 p7 p8 p9 : Int} (h : compPDen tf p1 p2 p3 = 0) :
    compP adcP tf p1 p2 p3 p4 p5 p6 p7 p8 p9 = 0 := if_pos h

/-- Where the sum and the product are exact, the denominator is the product shifted right by 33. -/
theorem compPDen_of_exact {tf p1 p2 p3 q : Int} (hq : q = 140737488355328 + compPV1b tf p2 p3)
    (hsum : -9223372036854775808 ≤ q ∧ q ≤ 9223372036854775807)
    (hprod : -9223372036854775808 ≤ q * p1 ∧ q * p1 ≤ 9223372036854775807) :
    compPDen tf p1 p2 p3 = q * p1 / 2 ^ 33 := by
  rw [compPDen, add64, ← hq, wrap64_eq_self hsum.1 hsum.2, mul64, wrap64_eq_self hprod.1 hprod.2, asr_eq_div]

theorem pressure_of_den_zero {tf : Word} {c : Calibration} (adcP : Word) (h : Reference.pressureDen tf c = 0) :
    Reference.pressure adcP tf c = 0 := by
  rw [pressure_eq, if_pos h]

theorem pressureDen_of_digP1_zero (tf : Word) {c : Calibration} (h : c.digP1 = 0) : Reference.pressureDen tf c = 0 := by
  apply BitVec.eq_of_toInt_eq
  rw [← compPDen_eq_reference, h]
  exact compPDen_digP1_zero ..

/-- Settles O17: the denominator with `dig_P1` = 0, the denominator where it is exact, and the guarded answer. -/
theorem pressureZeroGuard : Obligations.PressureZeroGuard := by
  refine ⟨fun adcP tf p2 p3 p4 p5 p6 p7 p8 p9 => compP_of_den_zero (compPDen_digP1_zero tf p2 p3),
    fun tf p1 p2 p3 q hq hlo hhi hlo' hhi' => ?_, fun s hv hzero => ?_⟩
  · rw [compPDen_of_exact hq ⟨hlo, hhi⟩ ⟨hlo', hhi'⟩]
    omega
  · have hden : Reference.pressureDen s.engine.tFine s.engine.cal = 0 :=
      hzero.elim (pressureDen_of_digP1_zero _) id
    rw [exec_convp_eq_reference hv, pressure_of_den_zero _ hden]

end Sys2Proof.Proofs

/-! PROOFS. The humidity conversion (42_convert_humidity.md): CONVH computes the manufacturer's text with its signed
clamp on 32-bit machine words (R100 to R102), and the range of every humidity the engine writes (R103). -/

namespace Sys2Proof.Proofs

open Sys2Proof.Machine Sys2Proof.Laws

/-! ### `compH` on machine words (R100) -/

/-- The clamp of R101 on a machine word. -/
def clampWord (x : Word) : Word :=
  let x := if x.slt 0 then 0 else x
  if (419430400#32).slt x then 419430400#32 else x

/-- The manufacturer's text is the clamp of the intermediate, shifted right by 12. -/
theorem humidity_eq (adcH tf : Word) (c : Calibration) :
    Reference.humidity adcH tf c = (clampWord (Reference.humidityRaw adcH tf c)).sshiftRight 12 := rfl

/-- The comparisons of the clamp are signed, so each is the comparison of the integers the words stand for. -/
theorem clampH_toInt (x : Word) : clampH x.toInt = (clampWord x).toInt := by
  have hzero : (0 : Word).toInt = 0 := by decide
  have hmax : (419430400#32).toInt = 0x19000000 := by decide
  simp only [clampH, clampWord, BitVec.slt_iff_toInt_lt, hzero, hmax]
  by_cases hneg : x.toInt < 0
  · rw [if_pos hneg, if_pos hneg]; decide
  · rw [if_neg hneg, if_neg hneg, apply_ite BitVec.toInt, hmax]

/-- Up to the clamp, the shifts, products and sums of R8 on the registers are those of 32-bit words, term by term. -/
theorem compHCorrect_eq_reference (adcH tf : Word) (c : Calibration) :
    compHCorrect
      (mul32 (compHA adcH.toInt (sub32 tf.toInt 76800) c.digH4.toInt c.digH5.toInt)
        (compHB (sub32 tf.toInt 76800) c.digH2.toInt c.digH3.toNat c.digH6.toInt)) c.digH1.toNat =
      (Reference.humidityRaw adcH tf c).toInt := by
  have h76800 : (76800 : Int) = (76800#32).toInt := by decide
  have h16384 : (16384 : Int) = (16384#32).toInt := by decide
  have h32768 : (32768 : Int) = (32768#32).toInt := by decide
  have h2097152 : (2097152 : Int) = (2097152#32).toInt := by decide
  have h8192 : (8192 : Int) = (8192#32).toInt := by decide
  rw [toNat_eq_toInt_setWidth (w := 32) (by decide) c.digH1, toNat_eq_toInt_setWidth (w := 32) (by decide) c.digH3,
    toInt_eq_toInt_signExtend (w := 32) (by decide) c.digH2, toInt_eq_toInt_signExtend (w := 32) (by decide) c.digH4,
    toInt_eq_toInt_signExtend (w := 32) (by decide) c.digH5, toInt_eq_toInt_signExtend (w := 32) (by decide) c.digH6]
  simp only [compHCorrect, compHA, compHB, h76800, h16384, h32768, h2097152, h8192,
    sub32_toInt, shl32_toInt, mul32_toInt, add32_toInt, asr_toInt]
  rfl

/-- A register keeps only the value modulo 2^32. -/
theorem toWord_u32 (v : Int) : toWord (u32 v) = toWord v := by
  have hwrap : wrap32 (u32 v) = wrap32 v := by unfold wrap32 u32; omega
  rw [← toWord_wrap32, hwrap, toWord_wrap32]

theorem toWord_humidityOf (e : Engine) : toWord (humidityOf e) = Reference.humidity e.raw.adcH e.tFine e.cal := by
  rw [humidityOf, compH, compHCorrect_eq_reference, clampH_toInt, asr_toInt, toWord_u32, toWord_toInt, humidity_eq]

/-- Settles O12: CONVH's one write, its value read on machine words. -/
theorem convhComputesHumidity : Obligations.ConvhComputesHumidity := by
  refine ⟨by decide, fun s hv => ?_⟩
  rw [exec_convh_of_valid hv, convertedH, toWord_humidityOf]

/-! ### The range of the humidity (R103) -/

/-- Only CONVH and a whole TASK write `out_H`, and both write it by the conversion. -/
theorem does_outH {i : Instr} {s t : State} (h : Does i s t) :
    t.engine.outH = s.engine.outH ∨ ∃ e, t.engine.outH = (convertedH e).outH := by
  cases h with
  | convh | task => exact .inr ⟨_, rfl⟩
  | edge | tick => simp
  | _ => exact .inl rfl

/-- Settles O19: the clamp bounds the function, and what an operation writes to `out_H` is its value. -/
theorem humidityOutputRange : Obligations.HumidityOutputRange := by
  refine ⟨compH_range, fun i s t h hne => ?_⟩
  obtain ⟨e, he⟩ := (does_outH (exec_does h)).resolve_left hne
  exact he ▸ convertedH_outH_le e

end Sys2Proof.Proofs

/-! PROOFS. The bus loads (43_bus_loads.md): a load whose read fails reports it and writes nothing (R110, R112, R113),
and the calibration is written as a whole or not at all (R111). -/

namespace Sys2Proof.Proofs

open Sys2Proof.Machine Sys2Proof.Laws

/-! ### The loads with a failed read (R113, R158) -/

/-- Settles O22: which read fails decides the one way LDCAL's steps can end. -/
theorem ldcalFailureWritesNothing : Obligations.LdcalFailureWritesNothing := by
  intro s
  have he : exec .ldcal s = .next (conclude (ldcalSteps s)) := rfl
  rcases ldcalSteps_cases s with ⟨a, b, ha, hb, -⟩ | ⟨hfA, h⟩ | ⟨a, ha, -, h⟩
  · exact ⟨fun hfA => absurd ha (hfA a), fun _ _ hfB => absurd hb (hfB b)⟩
  · exact ⟨fun _ => by rw [he, h, conclude_raised]; rfl, fun a ha => absurd ha (hfA a)⟩
  · exact ⟨fun hfA => absurd ha (hfA a), fun _ _ _ => by rw [he, h, conclude_raised]; rfl⟩

/-- Settles O25: with its read failed LDRAW's steps can end one way only. -/
theorem ldrawFailureWritesNothing : Obligations.LdrawFailureWritesNothing := by
  intro s hf
  have he : exec .ldraw s = .next (conclude (ldrawSteps s)) := rfl
  rcases ldrawSteps_cases s with ⟨d, hd, -⟩ | ⟨-, h⟩
  · exact absurd hd (hf d)
  · rw [he, h, conclude_raised]; rfl

/-! ### The calibration (R12, R111) -/

/-- Only LDCAL and an INIT that gets past its step 5 write the calibration, and both write it from two whole blocks. -/
theorem does_cal {i : Instr} {s t : State} (h : Does i s t) :
    t.engine.cal = s.engine.cal ∨
    ∃ (k : Nat) (a b : List Byte), (i = .ldcal ∧ k = 0 ∨ i = .init ∧ k = 4) ∧
      Delivers (answerAt s k) 26 a ∧ Delivers (answerAt s (k + 1)) 7 b ∧
      t.engine.cal = unpackCalibration s.cfg.h45SignExtend a b := by
  cases h with
  | ldcal _ a b ha hb => exact .inr ⟨0, a, b, .inl ⟨rfl, rfl⟩, ha, hb, rfl⟩
  | init _ a b _ _ ha hb | initFailsLast _ a b ha hb => exact .inr ⟨4, a, b, .inr ⟨rfl, rfl⟩, ha, hb, rfl⟩
  | edge | tick => simp
  | _ => exact .inl rfl

/-- Settles O23: the writing endings of `does_cal`, the values read by the byte maps. -/
theorem calibrationWrittenAllOrNone : Obligations.CalibrationWrittenAllOrNone := by
  intro i s t h hne
  obtain ⟨k, a, b, hi, ha, hb, hcal⟩ := (does_cal (exec_does h)).resolve_left hne
  exact ⟨k, a, b, hi, ha, hb, hcal.trans (unpackCalibration_eq_calibration ..)⟩

end Sys2Proof.Proofs

/-! PROOFS. The sequencing of the engine (44_engine_sequence.md): INIT completes or reports its first failed step (R120,
R121), TASK runs one cycle or keeps the readings (R122, R123), and the getters answer the outputs (R124 to R126). -/

namespace Sys2Proof.Proofs

open Sys2Proof.Machine Sys2Proof.Laws

/-! ### INIT (R120, R121) -/

theorem exec_init (s : State) : exec .init s = .next (conclude (initSteps s)) := rfl

/-- The first transaction of INIT's steps 1 to 4 that is not acknowledged is the one that ends it. -/
theorem initSteps_of_first_not_ack {s : State} {k : Nat} (hk : k < 4) (hbefore : ∀ j, j < k → answerAt s j = .ack)
    (hnot : answerAt s k ≠ .ack) : initSteps s = .raised .initFailure (k + 1) (initMade s (k + 1)) := by
  rcases initSteps_config s with ⟨k', -, hbefore', hnot', h⟩ | ⟨hack, -⟩
  · have hfirst : k' = k := by
      rcases Nat.lt_trichotomy k' k with hlt | heq | hgt
      · exact absurd (hbefore k' hlt) hnot'
      · exact heq
      · exact absurd (hbefore' k hgt) hnot
    rw [h, hfirst]
  · exact absurd (hack k hk) hnot

/-- Settles O26: with every transaction answered INIT's steps can end one way only. -/
theorem initCompletes : Obligations.InitCompletes := by
  refine ⟨by decide, fun s a b d hack ha hb hd => ?_⟩
  rcases initSteps_cases s with ⟨a', b', d', -, ha', hb', hd', h⟩ | ⟨k, hk, -, hnot, -⟩ | ⟨-, hf, -⟩ |
    ⟨-, -, -, hf, -⟩ | ⟨-, -, -, -, -, hf, -⟩
  · rw [exec_init, h, conclude_ok, unpackCalibration_eq_calibration, unpackRaw_eq_raw, delivers_unique ha ha',
      delivers_unique hb hb', delivers_unique hd hd']
  · exact absurd (hack k hk) hnot
  · exact absurd ha (hf a)
  · exact absurd hb (hf b)
  · exact absurd hd (hf d)

/-- Settles O27: with the configuration acknowledged, which read fails decides the one way INIT's steps can end. -/
theorem initFailureReportsFirstStep : Obligations.InitFailureReportsFirstStep := by
  intro s made
  refine ⟨fun k hk hbefore hnot => ?_, fun hack => ?_⟩
  · rw [exec_init, initSteps_of_first_not_ack hk hbefore hnot, conclude_raised]; rfl
  rcases initSteps_cases s with ⟨a, b, d, -, ha, hb, hd, -⟩ | ⟨k, hk, -, hnot, -⟩ | ⟨-, hfA, h⟩ |
    ⟨a, -, ha, hfB, h⟩ | ⟨a, b, -, ha, hb, -, h⟩
  · exact ⟨fun hfA => absurd ha (hfA a), fun _ _ hfB => absurd hb (hfB b), fun _ _ _ _ hfD => absurd hd (hfD d)⟩
  · exact absurd (hack k hk) hnot
  · exact ⟨fun _ => by rw [exec_init, h, conclude_raised]; rfl, fun a ha => absurd ha (hfA a),
      fun a _ ha => absurd ha (hfA a)⟩
  · exact ⟨fun hfA => absurd ha (hfA a), fun _ _ _ => by rw [exec_init, h, conclude_raised]; rfl,
      fun _ b _ hb => absurd hb (hfB b)⟩
  · refine ⟨fun hfA => absurd ha (hfA a), fun _ _ hfB => absurd hb (hfB b), fun a' b' ha' hb' _ => ?_⟩
    rw [exec_init, h, conclude_raised, unpackCalibration_eq_calibration, delivers_unique ha ha', delivers_unique hb hb']
    rfl

/-! ### TASK (R122, R123) -/

theorem exec_task (s : State) : exec .task s = .next (conclude (taskSteps s)) := rfl

/-- A cycle's three conversions read on machine words: pressure and humidity take the `t_fine` just computed. -/
theorem cycle_eq_reference (c : Config) (e : Engine) :
    convertedH (convertedP (convertedT c e)) = { e with
      tFine := Reference.tFine e.raw.adcT e.cal
      outT := Reference.temperature (Reference.tFine e.raw.adcT e.cal) - c.tempOffset
      outP := Reference.pressure e.raw.adcP (Reference.tFine e.raw.adcT e.cal) e.cal
      outH := Reference.humidity e.raw.adcH (Reference.tFine e.raw.adcT e.cal) e.cal
      tfineValid := true } := by
  simp only [convertedH, convertedP, toWord_humidityOf, toWord_pressureOf, convertedT_eq_reference]

/-- Settles O28: ready and with its read whole TASK's steps end in one cycle on the new sample. -/
theorem taskRunsOneCycle : Obligations.TaskRunsOneCycle := by
  refine ⟨by decide, fun s d hr hd => ?_⟩
  rcases taskSteps_cases s with ⟨d', -, hd', h⟩ | ⟨-, hf, -⟩ | ⟨hnr, -⟩
  · rw [exec_task, h, conclude_ok, cycle_eq_reference, unpackRaw_eq_raw, delivers_unique hd hd']
  · exact absurd hd (hf d)
  · exact absurd hr (by simp [hnr])

/-- Settles O30: ready and with its read failed TASK's steps end before anything is written. -/
theorem failedCycleKeepsReadings : Obligations.FailedCycleKeepsReadings := by
  intro s hr hf
  rcases taskSteps_cases s with ⟨d, -, hd, -⟩ | ⟨-, -, h⟩ | ⟨hnr, -⟩
  · exact absurd hd (hf d)
  · rw [exec_task, h, conclude_raised]; rfl
  · exact absurd hr (by simp [hnr])

/-! ### The getters (R124 to R126) -/

/-- Settles O31: a getter's whole meaning is its one answer, `respond` with the output register. -/
theorem gettersReturnOutputs : Obligations.GettersReturnOutputs :=
  ⟨by decide, by decide, by decide, fun _ => ⟨rfl, rfl, rfl⟩⟩

end Sys2Proof.Proofs

/-! PROOFS. The lane detector (45_lane_detector.md). The facts about one lane come first: its threshold, a tick of it,
and what any operation can do to it. The invariant of R140, the hysteresis of R143 and the independence of the lanes
(R142) are then one case per way a lane can change. -/

namespace Sys2Proof.Proofs

open Sys2Proof.Machine Sys2Proof.Laws

/-! ### One lane (R136, R138) -/

theorem threshold_of_full {x : LaneState} (h : x.state = .full) (c : Config) : threshold c x = c.minLaneEmptyTicks := by
  rw [threshold, h]

theorem threshold_of_empty {x : LaneState} (h : x.state = .empty) (c : Config) :
    threshold c x = c.minLaneFullTicks := by
  rw [threshold, h]

theorem threshold_toNat_pos {c : Config} (hc : c.wf = true) (x : LaneState) : 0 < (threshold c x).toNat := by
  obtain ⟨hfull, hempty⟩ : c.minLaneFullTicks ≠ 0 ∧ c.minLaneEmptyTicks ≠ 0 := by
    simpa [Config.wf, Config.fullTicksInRange, Config.emptyTicksInRange] using hc
  cases hx : x.state with
  | empty => rw [threshold_of_empty hx]; exact Nat.pos_of_ne_zero (BitVec.toNat_ne.1 hfull)
  | full => rw [threshold_of_full hx]; exact Nat.pos_of_ne_zero (BitVec.toNat_ne.1 hempty)

theorem threshold_toNat_le_max (c : Config) (x : LaneState) :
    (threshold c x).toNat ≤ max c.minLaneEmptyTicks.toNat c.minLaneFullTicks.toNat := by
  cases hx : x.state with
  | empty => rw [threshold_of_empty hx]; exact le_max_right _ _
  | full => rw [threshold_of_full hx]; exact le_max_left _ _

theorem tickLane_of_disarmed {x : LaneState} (ha : x.armed = false) (c : Config) : tickLane c x = x := by
  simp [tickLane, ha]

theorem tickLane_of_reached {c : Config} {x : LaneState} (ha : x.armed = true) (ht : x.counter + 1 = threshold c x) :
    tickLane c x = { state := x.state.toggle, armed := false, counter := x.counter + 1 } := by
  rw [tickLane, if_pos ha]; exact if_pos ht

theorem tickLane_of_not_reached {c : Config} {x : LaneState} (ha : x.armed = true)
    (ht : x.counter + 1 ≠ threshold c x) : tickLane c x = { x with counter := x.counter + 1 } := by
  rw [tickLane, if_pos ha]; exact if_neg ht

@[simp] theorem lane_afterHandler_self (l : Lane) (y : LaneState) (s : State) : (s.afterHandler l y).lane l = y := by
  cases l <;> rfl

theorem lane_of_tick {l : Lane} {s t : State} (h : Does (.tick l) s t) : t.lane l = tickLane s.cfg (s.lane l) := by
  cases h; exact lane_afterHandler_self ..

theorem eq_tick_of_isTickOf {i : Instr} {l : Lane} (h : i.isTickOf l = true) : i = .tick l := by
  cases i with
  | tick k => rw [show k = l by simpa [Instr.isTickOf] using h]
  | _ => cases h

/-- Everything an operation can do to a lane: an EDGE that names it, a TICK of it, or nothing. -/
theorem does_lane_cases {i : Instr} {s t : State} (h : Does i s t) (l : Lane) :
    (i.isEdgeOf l = true ∧ t.lane l = edgeLane (s.lane l)) ∨
    (i = .tick l ∧ t.lane l = tickLane s.cfg (s.lane l)) ∨
    (i.isEdgeOf l = false ∧ i.isTickOf l = false ∧ t.lane l = s.lane l) := by
  by_cases ht : i.isTickOf l = true
  · obtain rfl := eq_tick_of_isTickOf ht
    exact .inr (.inl ⟨rfl, lane_of_tick h⟩)
  · rw [Bool.not_eq_true] at ht
    by_cases he : i.isEdgeOf l = true
    · cases h with
      | edge m => exact .inl ⟨he, (lane_handler_edgeBody m l s).trans (if_pos he)⟩
      | _ => cases he
    · rw [Bool.not_eq_true] at he
      exact .inr (.inr ⟨he, ht, does_lane h he ht⟩)

/-! ### The counter never wraps (R140) -/

/-- Below any threshold a 16-bit counter has room for one more. -/
theorem toNat_add_one_of_lt {n b : Half} (h : n.toNat < b.toNat) : (n + 1).toNat = n.toNat + 1 := by
  bv_omega

theorem laneInv_reset (c : Config) : LaneInv c LaneState.reset :=
  ⟨fun h => absurd h Bool.false_ne_true, Nat.zero_le _⟩

theorem laneInv_edgeLane {c : Config} (hc : c.wf = true) (x : LaneState) : LaneInv c (edgeLane x) :=
  ⟨fun _ => threshold_toNat_pos hc _, Nat.zero_le _⟩

/-- The counter of a lane that goes on counting has not reached its threshold, and a commit leaves it there. -/
theorem laneInv_tickLane {c : Config} {x : LaneState} (hx : LaneInv c x) : LaneInv c (tickLane c x) := by
  have hmax := threshold_toNat_le_max c x
  rcases tickLane_cases c x with ⟨-, e⟩ | ⟨-, ht, e⟩ | ⟨ha, ht, e⟩ <;> rw [e]
  · exact hx
  · exact ⟨fun h => absurd h Bool.false_ne_true, ht ▸ hmax⟩
  · have hlt := hx.1 ha
    have hsucc := toNat_add_one_of_lt hlt
    have hne := BitVec.toNat_ne.1 ht
    have hstill : (x.counter + 1).toNat < (threshold c x).toNat := by omega
    exact ⟨fun _ => hstill, hstill.le.trans hmax⟩

theorem does_laneInv {i : Instr} {s t : State} (h : Does i s t) (hc : s.cfg.wf = true) {l : Lane}
    (hl : LaneInv s.cfg (s.lane l)) : LaneInv s.cfg (t.lane l) := by
  rcases does_lane_cases h l with ⟨-, e⟩ | ⟨-, e⟩ | ⟨-, -, e⟩ <;> rw [e]
  · exact laneInv_edgeLane hc _
  · exact laneInv_tickLane hl
  · exact hl

theorem step_debounceInv {s t : State} (hs : DebounceInv s) (h : step s = .next t) : DebounceInv t := by
  have ⟨hc, hl⟩ := hs
  rw [DebounceInv, step_cfg h]
  refine ⟨hc, fun l => ?_⟩
  rcases step_cases h with ⟨-, rfl⟩ | ⟨rest, -, rfl⟩ | ⟨w, rest, e, -, -, rfl⟩ | ⟨w, rest, i, -, -, hd⟩
  · exact hl l
  · cases l <;> exact laneInv_reset _
  · exact hl l
  · exact does_laneInv hd hc (hl l)

theorem counter_tickLane {c : Config} {x : LaneState} (ha : x.armed = true) :
    (tickLane c x).counter = x.counter + 1 := by
  rcases tickLane_cases c x with ⟨hd, -⟩ | ⟨-, -, e⟩ | ⟨-, -, e⟩
  · exact absurd (hd.symm.trans ha) (by decide)
  · rw [e]
  · rw [e]

/-- Settles O37: each way a lane can change keeps its invariant, and below its threshold the counter has room. -/
theorem debounceInvariantKept : Obligations.DebounceInvariantKept := by
  refine ⟨fun s t => step_debounceInv, fun s t l hs h ha => ?_⟩
  rw [lane_of_tick (exec_does h), counter_tickLane ha]
  exact toNat_add_one_of_lt ((hs.2 l).1 ha)

theorem resetWith_debounceInv {c : Config} (hc : c.wf = true) : DebounceInv (State.resetWith c) :=
  ⟨hc, fun l => by cases l <;> exact laneInv_reset c⟩

/-- One more than an open threshold's value less one is not 0 in 16 bits. -/
theorem ofNat_succ_ne_zero (k : Fin 65535) : BitVec.ofNat 16 (k.val + 1) ≠ 0 := by
  bv_omega

theorem device_wf : Config.device.wf = true := by
  simp only [Config.wf, Config.fullTicksInRange, Config.emptyTicksInRange, Config.device, Bool.and_eq_true, bne_iff_ne]
  exact ⟨ofNat_succ_ne_zero _, ofNat_succ_ne_zero _⟩

/-- Settles O38: at reset both lanes are disarmed at 0, and an open threshold is never 0. -/
theorem resetMeetsDebounceInvariant : Obligations.ResetMeetsDebounceInvariant :=
  ⟨fun _ => resetWith_debounceInv, resetWith_debounceInv device_wf⟩

/-! ### The operations one by one (R136 to R139) -/

theorem exec_tick (l : Lane) (s : State) :
    exec (.tick l) s = .next (s.afterHandler l (tickLane s.cfg (s.lane l))) :=
  congrArg Host.Outcome.next (handler_tickBody l s)

/-- Settles O34, one equation of `tickLane` per clause. -/
theorem tickCountsAndCommits : Obligations.TickCountsAndCommits := by
  refine ⟨by decide, by decide, fun s l => ⟨fun ha => ?_, fun ha hx ht => ?_, fun ha hx ht => ?_, fun ha hx ht => ?_,
    fun ha hx ht => ?_⟩⟩ <;> rw [exec_tick]
  · rw [tickLane_of_disarmed ha]
  · rw [tickLane_of_reached ha (by rw [threshold_of_full hx]; exact ht), hx]; rfl
  · rw [tickLane_of_reached ha (by rw [threshold_of_empty hx]; exact ht), hx]; rfl
  · rw [tickLane_of_not_reached ha (by rw [threshold_of_full hx]; exact ht), hx, ha]
  · rw [tickLane_of_not_reached ha (by rw [threshold_of_empty hx]; exact ht), hx, ha]

/-- Settles O36: of the ways a lane can change only a tick reaches the state, and only in committing. -/
theorem stateChangesOnlyInArmedTick : Obligations.StateChangesOnlyInArmedTick := by
  intro i s t l h hne
  rcases does_lane_cases (exec_does h) l with ⟨-, e⟩ | ⟨rfl, e⟩ | ⟨-, -, e⟩
  · exact absurd (by rw [e]; rfl) hne
  · rcases tickLane_cases s.cfg (s.lane l) with ⟨-, e'⟩ | ⟨ha, -, e'⟩ | ⟨-, -, e'⟩
    · exact absurd (by rw [e, e']) hne
    · exact ⟨rfl, ha, by rw [e, e']⟩
    · exact absurd (by rw [e, e']) hne
  · exact absurd (by rw [e]) hne

/-- Settles O32: `handler_edgeBody` with `edgeLane` written out. -/
theorem edgeArmsNamedLanes : Obligations.EdgeArmsNamedLanes :=
  ⟨by decide, by decide, fun s m => congrArg Host.Outcome.next (handler_edgeBody m s)⟩

theorem exec_isact (l : Lane) (s : State) :
    exec (.isact l) s = .next (s.answered .ok (BitVec.ofNat 32 (s.lane l).state.code)) := rfl

/-- Settles O35: the answer is the number of the state (R17). -/
theorem isactReportsCommittedState : Obligations.IsactReportsCommittedState := by
  refine ⟨by decide, by decide, fun s l => ⟨fun hx => ?_, fun hx => ?_⟩⟩ <;> rw [exec_isact, hx] <;> rfl

/-! ### Two handlers in a row (R136, R142) -/

theorem runAll_handlers {i j : Instr} (hi : i.context ≠ .main) (hj : j.context ≠ .main) (s : State) :
    runAll [i, j] s = .next (withDetector (handled s.cfg (handled s.cfg (detectorOf s) i) j) s) :=
  runAll_pair (exec_of_handler hi s) (exec_of_handler hj _)

/-- An EDGE of no lane only leaves `ie` at 1. -/
theorem handled_edge_none {d : Detector} (h : d.ie = true) (c : Config) :
    handled c d (.edge { lane0 := false, lane1 := false }) = d := by
  obtain ⟨lanes, ie, r0, r1⟩ := d
  obtain rfl : ie = true := h
  rfl

theorem handled_edge_both (c : Config) (d : Detector) (l : Lane) :
    handled c d (.edge { lane0 := true, lane1 := true }) =
      handled c (handled c d (.edge (LaneSet.single l))) (.edge (LaneSet.single l.other)) := by
  cases l <;> rfl

/-- Settles O33: the detector's share after the one EDGE is its share after the two. -/
theorem edgeOrderImmaterial : Obligations.EdgeOrderImmaterial := by
  intro s
  refine ⟨fun hs => ?_, fun l => ?_⟩
  · rw [exec_of_handler (by decide), handled_edge_none hs]; rfl
  · rw [exec_of_handler (by decide), runAll_handlers (by simp [Instr.context]) (by simp [Instr.context]),
      handled_edge_both]

/-- The two events of a lane (R135). -/
def IsEventOf (l : Lane) (i : Instr) : Prop := i = .edge (LaneSet.single l) ∨ i = .tick l

theorem IsEventOf.context_ne_main {l : Lane} {i : Instr} (h : IsEventOf l i) : i.context ≠ .main := by
  rcases h with rfl | rfl
  · simp [Instr.context]
  · cases l <;> simp [Instr.context]

/-- Events of different lanes write disjoint shares. -/
theorem handled_comm {l : Lane} {i j : Instr} (hi : IsEventOf l i) (hj : IsEventOf l.other j) (c : Config)
    (d : Detector) : handled c (handled c d i) j = handled c (handled c d j) i := by
  rcases hi with rfl | rfl
  · rcases hj with rfl | rfl <;> cases l <;> rfl
  · rcases hj with rfl | rfl <;> cases l <;> rfl

/-! ### Runs (R142, R143) -/

theorem exec_answers (i : Instr) (s : State) : ∃ t, exec i s = .next t := by
  cases i <;> exact ⟨_, rfl⟩

theorem runAll_cons {i : Instr} {s t : State} (h : exec i s = .next t) (ops : List Instr) :
    runAll (i :: ops) s = runAll ops t := by
  simp only [runAll, h]

theorem lane_runAll_of_not_named {l : Lane} {ops : List Instr} {s t : State}
    (hops : ∀ i ∈ ops, i.isEdgeOf l = false ∧ i.isTickOf l = false) (h : runAll ops s = .next t) :
    t.lane l = s.lane l := by
  induction ops generalizing s with
  | nil => cases h; rfl
  | cons i ops ih =>
    obtain ⟨u, hu⟩ := exec_answers i s
    obtain ⟨⟨he, ht⟩, hrest⟩ := List.forall_mem_cons.1 hops
    rw [runAll_cons hu] at h
    rw [ih hrest h, does_lane (exec_does hu) he ht]

/-- Settles O40: an induction over the trace, and the disjoint shares of the two lanes' events. -/
theorem lanesAreIndependent : Obligations.LanesAreIndependent := by
  refine ⟨fun l ops s t => lane_runAll_of_not_named, fun l i j s (hi : IsEventOf l i) (hj : IsEventOf l.other j) => ?_⟩
  rw [runAll_handlers hi.context_ne_main hj.context_ne_main, runAll_handlers hj.context_ne_main hi.context_ne_main,
    handled_comm hi hj]

/-- A lane that was `x` when an EDGE named it, `n` ticks later. -/
def afterTicks (c : Config) (x : LaneState) (n : Nat) : LaneState :=
  if n < (threshold c x).toNat then { state := x.state, armed := true, counter := BitVec.ofNat 16 n }
  else { state := x.state.toggle, armed := false, counter := threshold c x }

theorem edgeLane_eq_afterTicks {c : Config} (hc : c.wf = true) (x : LaneState) : edgeLane x = afterTicks c x 0 := by
  rw [afterTicks, if_pos (threshold_toNat_pos hc x)]; rfl

/-- Up to the largest 16-bit number a counter reaches a threshold exactly when the number of ticks does. -/
theorem ofNat_add_one_eq_iff {n : Nat} {b : Half} (h : n < b.toNat) : BitVec.ofNat 16 n + 1 = b ↔ n + 1 = b.toNat := by
  constructor <;> intro e <;> bv_omega

theorem tickLane_afterTicks (c : Config) (x : LaneState) (n : Nat) :
    tickLane c (afterTicks c x n) = afterTicks c x (n + 1) := by
  by_cases hn : n < (threshold c x).toNat
  · have hreach := ofNat_add_one_eq_iff hn
    rw [afterTicks, if_pos hn]
    by_cases hlast : n + 1 = (threshold c x).toNat
    · rw [tickLane_of_reached rfl (hreach.2 hlast), afterTicks, if_neg (by omega)]
      simp only [hreach.2 hlast]
    · rw [tickLane_of_not_reached rfl (mt hreach.1 hlast), afterTicks, if_pos (by omega), BitVec.ofNat_add]
      rfl
  · rw [afterTicks, if_neg hn, tickLane_of_disarmed rfl, afterTicks, if_neg (by omega)]

/-- Whatever else runs, only the ticks of the lane are counted. -/
theorem runAll_afterTicks {l : Lane} {ops : List Instr} (hops : ∀ i ∈ ops, i.isEdgeOf l = false) {s : State}
    {x : LaneState} {n : Nat} (hs : s.lane l = afterTicks s.cfg x n) :
    ∃ t, runAll ops s = .next t ∧ t.lane l = afterTicks s.cfg x (n + ops.countP (Instr.isTickOf l)) := by
  induction ops generalizing s n with
  | nil => exact ⟨s, rfl, hs⟩
  | cons i ops ih =>
    obtain ⟨u, hu⟩ := exec_answers i s
    obtain ⟨he, hrest⟩ := List.forall_mem_cons.1 hops
    have hd := exec_does hu
    rw [runAll_cons hu]
    rcases does_lane_cases hd l with ⟨he', -⟩ | ⟨rfl, e⟩ | ⟨-, ht, e⟩
    · exact absurd (he.symm.trans he') (by decide)
    · have hnext : u.lane l = afterTicks u.cfg x (n + 1) := by rw [e, hs, tickLane_afterTicks, does_cfg hd]
      obtain ⟨t, hrun, hlane⟩ := ih hrest hnext
      refine ⟨t, hrun, ?_⟩
      rw [hlane, does_cfg hd, List.countP_cons_of_pos (by simp [Instr.isTickOf]), Nat.add_right_comm, Nat.add_assoc]
    · have hnext : u.lane l = afterTicks u.cfg x n := by rw [e, hs, does_cfg hd]
      obtain ⟨t, hrun, hlane⟩ := ih hrest hnext
      exact ⟨t, hrun, by rw [hlane, does_cfg hd, List.countP_cons_of_neg (by simp [ht])]⟩

theorem threshold_eq_ite (c : Config) (x : LaneState) :
    threshold c x = if x.state = .full then c.minLaneEmptyTicks else c.minLaneFullTicks := by
  cases hx : x.state <;> simp [threshold, hx]

theorem toggle_eq_ite (o : Occupancy) : o.toggle = if o = .full then .empty else .full := by
  cases o <;> rfl

/-- Settles O39: EDGE puts the lane at no ticks, and a run counts on from there. -/
theorem laneChangesAtThreshold : Obligations.LaneChangesAtThreshold := by
  intro s m l ops hc hm hops
  obtain ⟨u, hu⟩ := exec_answers (.edge m) s
  have hd := exec_does hu
  have hedge : u.lane l = afterTicks u.cfg (s.lane l) 0 := by
    cases hd
    rw [lane_handler_edgeBody, if_pos hm, handler_edgeBody_cfg, edgeLane_eq_afterTicks hc]
  obtain ⟨t, hrun, hlane⟩ := runAll_afterTicks hops hedge
  refine ⟨t, (runAll_cons hu ops).trans hrun, ?_⟩
  rw [hlane, does_cfg hd, Nat.zero_add, afterTicks, threshold_eq_ite, toggle_eq_ite]

end Sys2Proof.Proofs

/-! PROOFS. The exceptions (60_exceptions.md): nothing stops the machine (R157, R164), what each operation may answer
(R150, R154, R155), and what an exception leaves of the engine. -/

namespace Sys2Proof.Proofs

open Sys2Proof.Machine Sys2Proof.Laws

/-! ### Nothing stops the machine (R157, R164, R183) -/

/-- Every stimulus leads to a next state: a reset, a reserved word and an operation alike, and so does having none. -/
theorem step_answers (s : State) : ∃ t, step s = .next t := by
  cases hs : s.env.inputs with
  | nil => exact ⟨s, by rw [step, nextInput_nil hs]⟩
  | cons x rest =>
    cases x with
    | reset => exact ⟨_, by rw [step, nextInput_cons hs]⟩
    | word w =>
      cases hw : decodeWord w with
      | ok i => exact step_of_decodeWord hs hw ▸ exec_answers i _
      | error e => exact ⟨_, step_of_reservedWord hs hw⟩

/-- Settles O8. -/
theorem everyStepAnswersNextState : Obligations.EveryStepAnswersNextState :=
  ⟨exec_answers, step_answers⟩

/-! ### What an operation may answer (R150) -/

/-- What R150 says of a response of operation i: its status is one of the operation's, and its info is in range. -/
structure AllowedAnswer (i : Instr) (r : Response) : Prop where
  status : mayAnswer i r.status = true
  busError : r.status = .busError → r.value = 1 ∨ i = .ldcal ∧ r.value = 2
  initFailure : r.status = .initFailure → 1 ≤ r.value.toNat ∧ r.value.toNat ≤ 6
  noInfo : r.status = .staleTfine ∨ r.status = .notReady → r.value = 0

theorem allowedAnswer_ok {i : Instr} (h : mayAnswer i .ok = true) (v : Word) :
    AllowedAnswer i { status := .ok, value := v } :=
  ⟨h, nofun, nofun, nofun⟩

theorem allowedAnswer_busError {i : Instr} {v : Word} (h : mayAnswer i .busError = true)
    (hv : v = 1 ∨ i = .ldcal ∧ v = 2) : AllowedAnswer i { status := .busError, value := v } :=
  ⟨h, fun _ => hv, nofun, nofun⟩

/-- INIT fails with the number of one of its six steps. -/
theorem allowedAnswer_initFailure {n : Nat} (h₁ : 1 ≤ n) (h₂ : n ≤ 6) :
    AllowedAnswer .init { status := .initFailure, value := BitVec.ofNat 32 n } := by
  have hn : (BitVec.ofNat 32 n).toNat = n := by rw [BitVec.toNat_ofNat]; omega
  exact ⟨rfl, nofun, fun _ => ⟨hn.symm ▸ h₁, hn.symm ▸ h₂⟩, nofun⟩

theorem allowedAnswer_noInfo {i : Instr} {e : Status} (h : mayAnswer i e = true)
    (he : e = .staleTfine ∨ e = .notReady) : AllowedAnswer i { status := e, value := 0 } := by
  rcases he with rfl | rfl
  · exact ⟨h, nofun, nofun, fun _ => rfl⟩
  · exact ⟨h, nofun, nofun, fun _ => rfl⟩

/-- An operation answers nothing, or once and as R150 allows it. -/
theorem does_answer {i : Instr} {s t : State} (h : Does i s t) :
    t.out.responses = s.out.responses ∨
    ∃ r, t.out.responses = r :: s.out.responses ∧ AllowedAnswer i r := by
  cases h with
  | edge | tick => simp
  | convpStale | convhStale => exact .inr ⟨_, rfl, allowedAnswer_noInfo rfl (.inl rfl)⟩
  | taskNotReady => exact .inr ⟨_, rfl, allowedAnswer_noInfo rfl (.inr rfl)⟩
  | ldcalFailsA | ldrawFails | taskFails => exact .inr ⟨_, rfl, allowedAnswer_busError rfl (.inl rfl)⟩
  | ldcalFailsB => exact .inr ⟨_, rfl, allowedAnswer_busError rfl (.inr ⟨rfl, rfl⟩)⟩
  | initFails _ _ _ _ h₁ h₂ => exact .inr ⟨_, rfl, allowedAnswer_initFailure h₁ (by omega)⟩
  | initFailsLast => exact .inr ⟨_, rfl, allowedAnswer_initFailure (n := 6) (by omega) (by omega)⟩
  | _ => exact .inr ⟨_, rfl, allowedAnswer_ok rfl _⟩

/-- Settles O45: the one answer of `does_answer` is the response in question. -/
theorem statusesAndInfoValues : Obligations.StatusesAndInfoValues := by
  refine ⟨by decide, fun i s t r h hr => ?_⟩
  rcases does_answer (exec_does h) with hnone | ⟨r', hr', hallowed⟩
  · exact absurd (hr.symm.trans hnone) (List.cons_ne_self _ _)
  · obtain rfl : r' = r := (List.cons.inj (hr'.symm.trans hr)).1
    exact ⟨hallowed.status, hallowed.busError, hallowed.initFailure, hallowed.noInfo⟩

/-! ### StaleFineTemperature and NotReady (R154, R155) -/

/-- Settles O13: a conversion with `tfine_valid` = 1 answers OK. -/
theorem staleFineTemperatureReported : Obligations.StaleFineTemperatureReported := by
  rintro s i (rfl | rfl)
  · refine ⟨exec_convp_of_stale, fun t h hr => ?_⟩
    cases exec_does h with
    | convp => simp at hr
    | convpStale _ hv => exact hv
  · refine ⟨exec_convh_of_stale, fun t h hr => ?_⟩
    cases exec_does h with
    | convh => simp at hr
    | convhStale _ hv => exact hv

theorem exec_task_of_not_ready {s : State} (h : s.engine.ready = false) :
    exec .task s = .next (s.failed .notReady 0) := by
  rcases taskSteps_cases s with ⟨_, hr, -⟩ | ⟨hr, -⟩ | ⟨-, hs⟩
  · exact absurd (hr.symm.trans h) (by decide)
  · exact absurd (hr.symm.trans h) (by decide)
  · rw [exec_task, hs, conclude_raised]; rfl

/-- NOT_READY stands in TASK's row of R150 alone. -/
theorem eq_task_of_mayAnswer_notReady {i : Instr} (h : mayAnswer i .notReady = true) : i = .task := by
  cases i with
  | task => rfl
  | _ => cases h

/-- Settles O29: a response NOT_READY is one that R150 allows to TASK alone. -/
theorem taskNotReadyDoesNothing : Obligations.TaskNotReadyDoesNothing := by
  refine ⟨fun s => exec_task_of_not_ready, fun i s t h hnew hr => ?_⟩
  obtain ⟨r, hr', hallowed⟩ := (does_answer (exec_does h)).resolve_left hnew
  obtain rfl : r = { status := .notReady, value := 0 } := by simpa [hr'] using hr
  exact eq_task_of_mayAnswer_notReady hallowed.status

/-! ### The engine after an exception (R151, R157) -/

/-- Settles O47: every way to end by an exception keeps the engine, but for those of INIT, which has cleared `ready`. -/
theorem exceptionsLeaveTheEngine : Obligations.ExceptionsLeaveTheEngine := by
  intro i s t r h hr hne
  cases exec_does h with
  | edge | tick => simp at hr
  | initFails | initFailsLast => exact ⟨fun hi => absurd rfl hi, fun _ => rfl⟩
  | convpStale | convhStale | ldcalFailsA | ldcalFailsB | ldrawFails | taskFails | taskNotReady =>
    exact ⟨fun _ => rfl, nofun⟩
  | _ =>
    obtain rfl := (List.cons.inj hr).1
    exact absurd rfl hne

end Sys2Proof.Proofs

/-! PROOFS. Reset (70_reset_and_hazards.md): the reset input and a step without a stimulus (R175), and what each
operation answers right after reset (R176). -/

namespace Sys2Proof.Proofs

open Sys2Proof.Machine Sys2Proof.Laws

/-! ### The reset input and the idle step (R175) -/

theorem step_of_reset {s : State} {rest : List Input} (hs : s.env.inputs = .reset :: rest) :
    step s = .next (applyReset { s with env := { s.env with inputs := rest } }) := by
  rw [step, nextInput_cons hs]

theorem step_of_no_input {s : State} (hs : s.env.inputs = []) : step s = .next s := by
  rw [step, nextInput_nil hs]

/-- Settles O5: `applyReset` puts the reset engine, lanes and `ie` around the parameters, the queues and the record. -/
theorem resetInputAndIdle : Obligations.ResetInputAndIdle :=
  ⟨fun _ _ => step_of_reset, fun _ => step_of_no_input⟩

/-! ### The lanes right after reset (R176) -/

theorem lane_resetWith (c : Config) (l : Lane) : (State.resetWith c).lane l = LaneState.reset := by cases l <;> rfl

theorem afterHandler_lane {s : State} (hie : s.ie = true) (l : Lane) : s.afterHandler l (s.lane l) = s := by
  obtain ⟨engine, lanes, ie, cfg, env, out⟩ := s
  obtain rfl : ie = true := hie
  cases l <;> rfl

/-- A tick of a disarmed lane does nothing, where interrupts are enabled already. -/
theorem exec_tick_of_disarmed {s : State} {l : Lane} (hie : s.ie = true) (ha : (s.lane l).armed = false) :
    exec (.tick l) s = .next s := by
  rw [exec_tick, tickLane_of_disarmed ha, afterHandler_lane hie]

theorem single_mem (l : Lane) : (LaneSet.single l).mem l = true := by cases l <;> rfl

theorem lane_of_edge_single {l : Lane} {s t : State} (h : Does (.edge (LaneSet.single l)) s t) :
    t.lane l = edgeLane (s.lane l) := by
  cases h
  rw [lane_handler_edgeBody, if_pos (single_mem l)]

/-! ### The conversions right after reset (R176) -/

/-- R84: with nothing loaded `t_fine` and the temperature are 0, so CONVT leaves the trim alone in `out_T`. -/
theorem convertedT_reset (c : Config) :
    convertedT c Engine.reset = { Engine.reset with outT := 0 - c.tempOffset, tfineValid := true } := by
  have htf : Reference.tFine Engine.reset.raw.adcT Engine.reset.cal = 0 := by decide
  have ht : Reference.temperature 0 = 0 := by decide
  rw [convertedT_eq_reference, htf, ht]
  rfl

/-- R93: the zero guard answers for `dig_P1` = 0, and writes nothing new over an `out_P` of 0. -/
theorem exec_convp_of_digP1_zero {s : State} (hv : s.engine.tfineValid = true) (h1 : s.engine.cal.digP1 = 0)
    (hout : s.engine.outP = 0) : exec .convp s = .next (s.answered .ok 0) := by
  have hp : Reference.pressure s.engine.raw.adcP s.engine.tFine s.engine.cal = s.engine.outP := by
    rw [pressure_of_den_zero _ (pressureDen_of_digP1_zero _ h1), hout]
  rw [exec_convp_eq_reference hv, hp, ← hout]

/-- R104 (b): `dig_H2` = 0 alone makes the second factor of the intermediate 0, so what is clamped is 0. -/
theorem humidityRaw_of_digH2_zero (adcH tf : Word) {c : Calibration} (h2 : c.digH2 = 0) :
    Reference.humidityRaw adcH tf c = 0 := by
  have hext : Reference.iext 32 (0 : Half) = 0#32 := by decide
  have hb : (8192#32).sshiftRight 14 = 0#32 := by decide
  simp only [Reference.humidityRaw, h2, hext, BitVec.mul_zero, BitVec.zero_add, hb, BitVec.zero_sshiftRight,
    BitVec.zero_mul]
  rfl

theorem humidity_of_digH2_zero (adcH tf : Word) {c : Calibration} (h2 : c.digH2 = 0) :
    Reference.humidity adcH tf c = 0 := by
  rw [humidity_eq, humidityRaw_of_digH2_zero adcH tf h2]
  decide

/-- R104: `dig_H2` = 0 gives the humidity 0, and this writes nothing new over an `out_H` of 0. -/
theorem exec_convh_of_digH2_zero {s : State} (hv : s.engine.tfineValid = true) (h2 : s.engine.cal.digH2 = 0)
    (hout : s.engine.outH = 0) : exec .convh s = .next (s.answered .ok 0) := by
  have hh : toWord (humidityOf s.engine) = s.engine.outH := by
    rw [toWord_humidityOf, humidity_of_digH2_zero _ _ h2, hout]
  rw [exec_convh_of_valid hv, convertedH, hh, ← hout]

/-- Settles O7: each operation's own equation, at the values of R22. -/
theorem behaviourRightAfterReset : Obligations.BehaviourRightAfterReset := by
  intro c r t₀ t
  have hconvt : exec .convt r = .next t := by
    rw [exec_convt, show r.engine = Engine.reset from rfl, convertedT_reset]
    rfl
  refine ⟨fun l => ?_, rfl, rfl, rfl, exec_task_of_not_ready rfl, exec_convp_of_stale rfl, exec_convh_of_stale rfl,
    hconvt, exec_convp_of_digP1_zero rfl rfl rfl, exec_convh_of_digH2_zero rfl rfl rfl, fun l => ?_,
    fun l u h => ?_⟩
  · rw [exec_isact, lane_resetWith]; rfl
  · exact exec_tick_of_disarmed rfl (by rw [lane_resetWith]; rfl)
  · rw [lane_of_edge_single (exec_does h), lane_resetWith]; rfl

end Sys2Proof.Proofs
